-- ==== Sys2Proof/Word.lean ====
section
/-!
DEFINITION. The word types of the block (spec 00_scope.md R7): an 8-bit byte, a 16-bit word (an
opcode, PC or I), a 12-bit address immediate, and a 4-bit register index.
-/

namespace Sys2Proof

/-- One byte of memory or one general register (R7, R21). -/
abbrev Byte := BitVec 8

/-- A 16-bit opcode, program counter or index register (R7, R80). -/
abbrev Word := BitVec 16

/-- The 12-bit immediate NNN (R81). -/
abbrev Addr12 := BitVec 12

/-- The number of a general register, 0x0 to 0xF (R21). -/
abbrev RegIdx := Fin 16

/-- A display cell's place in the row-major buffer, 0 to 2047 (R29). -/
abbrev CellIdx := Fin 2048

end Sys2Proof
end

