-- ==== Sys2Proof/Syntax.lean ====
section
/-!
DEFINITION. The instructions: one constructor per row of spec/opcode_table.json, named by the row's
hexadecimal pattern (spec 00_scope.md R14, 30_encoding.md R84, R89). Fields as in R81: X and Y are
register numbers, N a count of 0 to 15, NN a byte, NNN a 12-bit address, w the low 12 bits of a no-op
word.
-/

namespace Sys2Proof

/-- Every instruction of the block (R84). -/
inductive Instr where
  /-- 00E0, `CLS`: clear screen (R120). -/
  | op00E0
  /-- 1NNN, `JP nnn`: jump (R130). -/
  | op1NNN (nnn : Addr12)
  /-- 6XNN, `LD Vx, nn`: load immediate (R140). -/
  | op6XNN (x : RegIdx) (nn : Byte)
  /-- 7XNN, `ADD Vx, nn`: add immediate (R141). -/
  | op7XNN (x : RegIdx) (nn : Byte)
  /-- ANNN, `LD I, nnn`: load index (R142). -/
  | opANNN (nnn : Addr12)
  /-- DXYN, `DRW Vx, Vy, n`: draw sprite with collision (R160). -/
  | opDXYN (x y : RegIdx) (n : Fin 16)
  /-- A class-0 word other than 0x00E0: no-op, event class ZERO_GROUP (R107, R108). -/
  | nopZeroGroup (w : BitVec 12)
  /-- A class-2 word: no-op, event class NO_CASE (R108). -/
  | nopClass2 (w : BitVec 12)
  /-- A class-3 word: no-op, event class NO_CASE (R108). -/
  | nopClass3 (w : BitVec 12)
  /-- A class-4 word: no-op, event class NO_CASE (R108). -/
  | nopClass4 (w : BitVec 12)
  /-- A class-5 word: no-op, event class NO_CASE (R108). -/
  | nopClass5 (w : BitVec 12)
  /-- A class-8 word: no-op, event class NO_CASE (R108). -/
  | nopClass8 (w : BitVec 12)
  /-- A class-9 word: no-op, event class NO_CASE (R108). -/
  | nopClass9 (w : BitVec 12)
  /-- A class-B word: no-op, event class NO_CASE (R108). -/
  | nopClassB (w : BitVec 12)
  /-- A class-C word: no-op, event class NO_CASE (R108). -/
  | nopClassC (w : BitVec 12)
  /-- A class-E word: no-op, event class NO_CASE (R108). -/
  | nopClassE (w : BitVec 12)
  /-- A class-F word: no-op, event class NO_CASE (R108). -/
  | nopClassF (w : BitVec 12)
deriving DecidableEq, Repr

end Sys2Proof
end

