-- ==== Sys2Proof/WellFormed.lean ====
section
/-!
DEFINITION. Which instruction terms stand for a word of the hardware. The field types already bound
every operand (spec 30_encoding.md R85: every value of X, Y, N, NN and NNN is legal); the one check
left is that the ZERO_GROUP no-op is not the word 0x00E0, which is the clear-screen instruction (R107).
-/

namespace Sys2Proof

/-- The low 12 bits of the one word that 00E0 takes out of class 0 (R84, R107). -/
def clearScreenLow : BitVec 12 := 0x0E0

/-- The term is the decoding of some word. -/
def Instr.wellFormed : Instr → Bool
  | .op00E0 => true
  | .op1NNN _ => true
  | .op6XNN _ _ => true
  | .op7XNN _ _ => true
  | .opANNN _ => true
  | .opDXYN _ _ _ => true
  | .nopZeroGroup w => w != clearScreenLow
  | .nopClass2 _ => true
  | .nopClass3 _ => true
  | .nopClass4 _ => true
  | .nopClass5 _ => true
  | .nopClass8 _ => true
  | .nopClass9 _ => true
  | .nopClassB _ => true
  | .nopClassC _ => true
  | .nopClassE _ => true
  | .nopClassF _ => true

end Sys2Proof
end

