-- ==== Sys2Proof/Decode.lean ====
section
/-!
DEFINITION. Decoding and encoding (spec 30_encoding.md R80 to R91). Every instruction is one 16-bit
word, stored high byte first (R65, R80). Decoding a word is total (R86) and depends on the word alone
(R88); decoding a list of bytes rejects, by name, a list too short to hold a word.
-/

namespace Sys2Proof

/-! ## Bytes and words -/

/-- `(high << 8) | low` (20_memory.md R65, 40_step_cycle.md R103). -/
def wordOfBytes (hi lo : Byte) : Word := hi ++ lo

/-- The byte stored at the lower address (R65). -/
def hiByte (w : Word) : Byte := w.extractLsb' 8 8

/-- The byte stored at the higher address (R65). -/
def loByte (w : Word) : Byte := w.extractLsb' 0 8

/-! ## Fields (R81) -/

/-- op[15:12]. -/
def fieldClass (op : Word) : Fin 16 := (op.extractLsb' 12 4).toFin

/-- X = op[11:8]. -/
def fieldX (op : Word) : RegIdx := (op.extractLsb' 8 4).toFin

/-- Y = op[7:4]. -/
def fieldY (op : Word) : RegIdx := (op.extractLsb' 4 4).toFin

/-- N = op[3:0]. -/
def fieldN (op : Word) : Fin 16 := (op.extractLsb' 0 4).toFin

/-- NN = op[7:0]. -/
def fieldNN (op : Word) : Byte := op.extractLsb' 0 8

/-- NNN = op[11:0]. -/
def fieldNNN (op : Word) : Addr12 := op.extractLsb' 0 12

/-! ## The decoder -/

/-- Class 0 (R107): the exact word 0x00E0 is clear screen, every other word a ZERO_GROUP no-op. -/
def decodeClass0 (op : Word) : Instr :=
  if op = 0x00E0 then .op00E0 else .nopZeroGroup (fieldNNN op)

/-- Dispatch on the class field (R84, R106). -/
def decode (op : Word) : Instr :=
  match fieldClass op with
  | 0x0 => decodeClass0 op
  | 0x1 => .op1NNN (fieldNNN op)
  | 0x2 => .nopClass2 (fieldNNN op)
  | 0x3 => .nopClass3 (fieldNNN op)
  | 0x4 => .nopClass4 (fieldNNN op)
  | 0x5 => .nopClass5 (fieldNNN op)
  | 0x6 => .op6XNN (fieldX op) (fieldNN op)
  | 0x7 => .op7XNN (fieldX op) (fieldNN op)
  | 0x8 => .nopClass8 (fieldNNN op)
  | 0x9 => .nopClass9 (fieldNNN op)
  | 0xA => .opANNN (fieldNNN op)
  | 0xB => .nopClassB (fieldNNN op)
  | 0xC => .nopClassC (fieldNNN op)
  | 0xD => .opDXYN (fieldX op) (fieldY op) (fieldN op)
  | 0xE => .nopClassE (fieldNNN op)
  | 0xF => .nopClassF (fieldNNN op)
  | ⟨_ + 16, h⟩ => absurd h (by omega)

/-- Why a list of bytes gives no instruction. -/
inductive DecodeError where
  /-- Fewer than the two bytes of an instruction (R80). -/
  | truncated
deriving DecidableEq, Repr

/-- The instruction at the head of a list of bytes, and the bytes after it. -/
def decodeBytes : List Byte → Except DecodeError (Instr × List Byte)
  | hi :: lo :: rest => .ok (decode (wordOfBytes hi lo), rest)
  | [_] => .error .truncated
  | [] => .error .truncated

/-! ## The encoder (R91) -/

/-- A no-op or jump-shaped word: a class and 12 more bits. -/
def wordOfClass (c : BitVec 4) (low : BitVec 12) : Word := c ++ low

/-- The 4 bits of a register number or a sprite height. -/
def nibble (k : Fin 16) : BitVec 4 := BitVec.ofFin k

/-- The word of an instruction (R91; the no-op words by R84). -/
def encode : Instr → Word
  | .op00E0 => 0x00E0
  | .op1NNN nnn => wordOfClass 0x1 nnn
  | .op6XNN x nn => wordOfClass 0x6 (nibble x ++ nn)
  | .op7XNN x nn => wordOfClass 0x7 (nibble x ++ nn)
  | .opANNN nnn => wordOfClass 0xA nnn
  | .opDXYN x y n => wordOfClass 0xD (nibble x ++ nibble y ++ nibble n)
  | .nopZeroGroup w => wordOfClass 0x0 w
  | .nopClass2 w => wordOfClass 0x2 w
  | .nopClass3 w => wordOfClass 0x3 w
  | .nopClass4 w => wordOfClass 0x4 w
  | .nopClass5 w => wordOfClass 0x5 w
  | .nopClass8 w => wordOfClass 0x8 w
  | .nopClass9 w => wordOfClass 0x9 w
  | .nopClassB w => wordOfClass 0xB w
  | .nopClassC w => wordOfClass 0xC w
  | .nopClassE w => wordOfClass 0xE w
  | .nopClassF w => wordOfClass 0xF w

/-- The two bytes of an instruction as memory holds them, the high byte first (R65, R80). -/
def encodeBytes (i : Instr) : List Byte := [hiByte (encode i), loByte (encode i)]

/-! ## The opcode table (R84, R85) -/

/-- One row of spec/opcode_table.json: a word belongs to it when `word & mask = pattern`. -/
structure TableRow where
  mnemonic : String
  mask : Word
  pattern : Word
deriving DecidableEq, Repr

/-- The row's mask and match hold of the word. -/
def TableRow.covers (r : TableRow) (op : Word) : Bool := op &&& r.mask == r.pattern

/-- The table's row of an instruction. -/
def Instr.tableRow : Instr → TableRow
  | .op00E0 => ⟨"00E0", 0xFFFF, 0x00E0⟩
  | .op1NNN _ => ⟨"1NNN", 0xF000, 0x1000⟩
  | .op6XNN _ _ => ⟨"6XNN", 0xF000, 0x6000⟩
  | .op7XNN _ _ => ⟨"7XNN", 0xF000, 0x7000⟩
  | .opANNN _ => ⟨"ANNN", 0xF000, 0xA000⟩
  | .opDXYN _ _ _ => ⟨"DXYN", 0xF000, 0xD000⟩
  | .nopZeroGroup _ => ⟨"NOP_ZERO_GROUP", 0xF000, 0x0000⟩
  | .nopClass2 _ => ⟨"NOP_CLASS_2", 0xF000, 0x2000⟩
  | .nopClass3 _ => ⟨"NOP_CLASS_3", 0xF000, 0x3000⟩
  | .nopClass4 _ => ⟨"NOP_CLASS_4", 0xF000, 0x4000⟩
  | .nopClass5 _ => ⟨"NOP_CLASS_5", 0xF000, 0x5000⟩
  | .nopClass8 _ => ⟨"NOP_CLASS_8", 0xF000, 0x8000⟩
  | .nopClass9 _ => ⟨"NOP_CLASS_9", 0xF000, 0x9000⟩
  | .nopClassB _ => ⟨"NOP_CLASS_B", 0xF000, 0xB000⟩
  | .nopClassC _ => ⟨"NOP_CLASS_C", 0xF000, 0xC000⟩
  | .nopClassE _ => ⟨"NOP_CLASS_E", 0xF000, 0xE000⟩
  | .nopClassF _ => ⟨"NOP_CLASS_F", 0xF000, 0xF000⟩

/-! ## The host's question -/

/-- The instruction the decoder reads from the bits `w` of a table row, laid out as memory holds them:
one word, high byte first (R65, R80). -/
def decodeTableWord (nbits w : Nat) : Option Instr :=
  let op := BitVec.ofNat 16 (w % 2 ^ nbits)
  match decodeBytes [hiByte op, loByte op] with
  | .ok (i, _) => some i
  | .error _ => none

end Sys2Proof
end

