-- ==== Sys2Proof/Config.lean ====
section
/-!
DEFINITION. The fixed sizes of the block that its rules compute with (spec 00_scope.md R7; the other sizes
are the types' in Word.lean and Machine/State.lean), and its two open parameters (R8): FONT and
DRAW_COORD_READ, constants without a body, so that no proof can see their values.
-/

namespace Sys2Proof.Config

/-- MEM_SIZE: addresses 0x000 to 0xFFF (R7). -/
def memSize : Nat := 4096
/-- ENTRY: the reset value of PC and the load address of a ROM (R7, R62). -/
def entry : Nat := 0x200
/-- ROM_MAX: the longest byte sequence LOAD_ROM takes (R7, R233). -/
def romMax : Nat := 3584

@[simp] theorem memSize_eq : memSize = 4096 := rfl
@[simp] theorem entry_eq : entry = 0x200 := rfl
@[simp] theorem romMax_eq : romMax = 3584 := rfl

/-- The two values of the parameter DRAW_COORD_READ (R8, R164): DXYN reads V[x] and V[y] once, before
it clears V[0xF] (`latched`), or again at every set sprite bit (`live`). -/
inductive DrawCoordRead where
  | latched
  | live
deriving DecidableEq, Repr, Inhabited

/-- DRAW_COORD_READ of this machine, left OPEN by the spec (R8, R164, D6). No body: every claim holds
for both values unless it names one (log 2). -/
opaque drawCoordRead : DrawCoordRead

/-- FONT of this machine: the 80 bytes RESET installs at 0x000 to 0x04F, left OPEN by the spec (R8,
R63, D7). No body: every claim holds for every font (log 1). -/
opaque font : Vector Byte 80

/-- The reference value of FONT (20_memory.md R64), one glyph a line. The spec takes it from general
knowledge (G1); no definition of the machine reads it, and a claim that wants it has to assume
`font = referenceFont` (log 11, PRESUMED). -/
def referenceFont : Vector Byte 80 := #v[
  0xF0, 0x90, 0x90, 0x90, 0xF0,
  0x20, 0x60, 0x20, 0x20, 0x70,
  0xF0, 0x10, 0xF0, 0x80, 0xF0,
  0xF0, 0x10, 0xF0, 0x10, 0xF0,
  0x90, 0x90, 0xF0, 0x10, 0x10,
  0xF0, 0x80, 0xF0, 0x10, 0xF0,
  0xF0, 0x80, 0xF0, 0x90, 0xF0,
  0xF0, 0x10, 0x20, 0x40, 0x40,
  0xF0, 0x90, 0xF0, 0x90, 0xF0,
  0xF0, 0x90, 0xF0, 0x10, 0xF0,
  0xF0, 0x90, 0xF0, 0x90, 0x90,
  0xE0, 0x90, 0xE0, 0x90, 0xE0,
  0xF0, 0x80, 0x80, 0x80, 0xF0,
  0xE0, 0x90, 0x90, 0x90, 0xE0,
  0xF0, 0x80, 0xF0, 0x80, 0xF0,
  0xF0, 0x80, 0xF0, 0x80, 0x80]

end Sys2Proof.Config
end

