-- ==== Sys2Proof/Machine/State.lean ====
section
/-!
DEFINITION. The state of the block, exactly the elements of spec 10_state.md R20, as plain data, and
its value after RESET (R38). Also the machine's reasons to stop.
-/

namespace Sys2Proof.Machine

/-- Memory as the list of the (address, byte) pairs that differ from what an unlisted address reads as
(`Memory.unlisted` in Machine/Ops.lean: FONT at 0x000 to 0x04F, zero above), addresses strictly
rising (log 8). -/
abbrev Memory := List Host.Cell

/-- FAULT_CAUSE (R33). Code 3 is reserved and never written, so the type has no name for it
(93_implementation_defined.md U8, log 7); the 2-bit codes are `FaultCause.code` in Machine/Ops.lean. -/
inductive FaultCause where
  /-- Code 0: no fault. -/
  | none
  /-- Code 1: fetch with PC or PC + 1 at 4096 or above (R102). -/
  | fetchOob
  /-- Code 2: a DXYN sprite row at 4096 or above (R161). -/
  | spriteOob
deriving DecidableEq, Repr

/-- Why the machine stops without a next state. -/
inductive Fault where
  /-- REFUSED_FAULTED: a STEP of a block that is halted by a fault (FAULTED = 1). The spec refuses it,
  changes nothing, and calls the run stuck until RESET or LOAD_ROM (R101, D3, U6). Raised by
  Machine/Cycle.lean's `cycle` alone, never by an instruction. Safe: the machine stops where the
  hardware's state stands still (log 3). -/
  | refusedFaulted
deriving DecidableEq, Repr

/-- Why an instruction has no meaning. -/
inductive Refusal where
  /-- An instruction the model gives no meaning to. Raised by no arm of `exec`: every row of the opcode
  table has its meaning. Safe. -/
  | notModelled (mnemonic : String)
deriving DecidableEq, Repr

/-- The architectural state, "exactly the following, and nothing else" (R20). -/
structure State where
  /-- MEM, 4096 bytes (R31, R60). -/
  mem : Memory
  /-- V[0x0] to V[0xF] (R21); V[0xF] is also the collision flag (R23). -/
  v : Vector Byte 16
  /-- PC (R24). -/
  pc : Word
  /-- I, the index register (R26). -/
  i : Word
  /-- DT, the delay timer (R27). -/
  dt : Byte
  /-- ST, the sound timer (R28, D8). -/
  st : Byte
  /-- DISP, 64 x 32 cells, row-major (R29). -/
  disp : Vector Bool 2048
  /-- KEYS, indexed by hexadecimal digit (R30). -/
  keys : Vector Bool 16
  /-- FAULTED (R32, D3). -/
  faulted : Bool
  /-- FAULT_CAUSE (R32, R33). -/
  faultCause : FaultCause
  /-- FAULT_PC (R32). -/
  faultPc : Word
deriving DecidableEq, Repr

/-- The state after RESET, and after power-on (R38, R230, R232). Memory lists nothing: it reads as
FONT at 0x000 to 0x04F and as zero elsewhere. -/
def State.reset : State where
  mem := []
  v := Vector.replicate 16 0
  pc := 0x200
  i := 0x000
  dt := 0
  st := 0
  disp := Vector.replicate 2048 false
  keys := Vector.replicate 16 false
  faulted := false
  faultCause := .none
  faultPc := 0x0000

end Sys2Proof.Machine
end

