-- ==== Sys2Proof/Machine/Ops.lean ====
section
/-!
DEFINITION. The named operations of the block over memory, display, program counter, timers and fault
status (spec 20_memory.md, 40_step_cycle.md, 60_exceptions.md). Each is the one place its rule is coded.
-/

namespace Sys2Proof.Machine

/-! ## Memory (20_memory.md R60 to R68) -/

/-- The byte of FONT at address `a`, if `a` lies in 0x000 to 0x04F (R61, R63). -/
def fontByte (a : Nat) : Option Byte := Config.font[a]?

/-- What an address that the memory list does not name reads as: the reset contents, FONT at 0x000 to
0x04F and zero elsewhere (R38, R61, R63; log 8). -/
def Memory.unlisted (a : Nat) : Byte := (fontByte a).getD 0

/-- The byte at `a`, MEM[a] (R67). The callers check `a < 4096` first, as their rules say (R102, R161);
no read wraps. -/
def Memory.read : Memory → Nat → Byte
  | [], a => Memory.unlisted a
  | (a', b) :: m, a => if a = a' then b else Memory.read m a

/-- The entry (a, b) in front of `m`, left out where `a` reads as `b` unlisted. -/
def Memory.cons (a : Nat) (b : Byte) (m : Memory) : Memory :=
  if b = Memory.unlisted a then m else (a, b) :: m

/-- Set the byte at `a`, keeping the list in its canonical form. -/
def Memory.set : Memory → Nat → Byte → Memory
  | [], a, b => Memory.cons a b []
  | (a', b') :: m, a, b =>
    if a < a' then Memory.cons a b ((a', b') :: m)
    else if a = a' then Memory.cons a b m
    else (a', b') :: Memory.set m a b

/-- MemWrite(a, 1, b) (R68): stores `b` at `a` for `a < 4096`. No transaction writes outside memory;
such a write would store nothing. -/
def Memory.write (m : Memory) (a : Nat) (b : Byte) : Memory :=
  if a < Config.memSize then Memory.set m a b else m

/-- MemWrite of consecutive bytes from `a` up, in order (R235). -/
def Memory.writeBytes (m : Memory) (a : Nat) : List Byte → Memory
  | [] => m
  | b :: bs => Memory.writeBytes (Memory.write m a b) (a + 1) bs

/-- The canonical form from address `lo` up: addresses strictly rising and inside memory, and no entry
equal to what its address reads as unlisted. -/
def Memory.wfFrom (lo : Nat) : Memory → Bool
  | [] => true
  | (a, b) :: m =>
    decide (lo ≤ a) && decide (a < Config.memSize) && b != Memory.unlisted a && Memory.wfFrom (a + 1) m

/-- The canonical form of a memory: equal memories are equal lists (log 8). -/
def Memory.wf (m : Memory) : Bool := Memory.wfFrom 0 m

/-! ## Display buffer (10_state.md R29) -/

/-- DISP[idx]. -/
def State.cell (s : State) (idx : CellIdx) : Bool := s.disp[idx]

/-- DISP[idx] <- b. -/
def State.setCell (s : State) (idx : CellIdx) (b : Bool) : State :=
  { s with disp := s.disp.set idx b }

/-- DISP[idx] <- 0 for every idx (R120). -/
def State.clearDisplay (s : State) : State :=
  { s with disp := Vector.replicate 2048 false }

/-! ## Program counter and index register (R24, R26) -/

/-- PC <- target. -/
def State.setPc (s : State) (target : Word) : State := { s with pc := target }

/-- I <- v. -/
def State.setI (s : State) (a : Word) : State := { s with i := a }

/-- Part 2 of a STEP: PC <- pc0 + 2, after the fetch and before dispatch (R104). -/
def State.advancePc (s : State) : State := s.setPc (s.pc + 2)

/-- The address of the instruction being executed, pc0. During execution PC holds pc0 + 2 (R24, R104;
log 9). -/
def State.instrAddr (s : State) : Word := s.pc - 2

/-! ## Timers (R110, R111) -/

/-- One count down with floor zero: `if t > 0: t <- t - 1` on 8 bits. -/
def countDown (t : Byte) : Byte := if t = 0 then 0 else t - 1

/-- Part 5 of a STEP: DT and ST each count down once (R110, R111). -/
def State.tick (s : State) : State := { s with dt := countDown s.dt, st := countDown s.st }

/-! ## Faults (60_exceptions.md R200 to R204) -/

/-- The 2-bit code of FAULT_CAUSE (R33). -/
def FaultCause.code : FaultCause → BitVec 2
  | .none => 0
  | .fetchOob => 1
  | .spriteOob => 2

/-- `raise MemoryOutOfBounds(cause, pc0)` (R201 to R203), the block's one exception. The fault is
precise: PC is the address of the faulting instruction again, the three fault fields are written and
nothing else is; both raisers raise before any other write of the STEP (R202), and the tick that the
fault skips is Machine/Cycle.lean's to skip. There is no vector and no handler (R203). -/
def State.raiseMemoryOutOfBounds (s : State) (cause : FaultCause) (pc0 : Word) : State :=
  { s with pc := pc0, faulted := true, faultCause := cause, faultPc := pc0 }

/-- Reset() (R230): the result does not depend on the state before it (R231). It is the only return
from the faulted state, on its own or inside LOAD_ROM (R204); no instruction returns from a fault. -/
def State.resetBlock (_ : State) : State := State.reset

/-! ## Fetch (40_step_cycle.md R102, R103) -/

/-- Part 1 of a STEP: the word at PC and PC + 1, high byte first, or nothing where PC + 1 is not below
4096 (computed without wrap, R143). -/
def State.fetch (s : State) : Option Word :=
  if s.pc.toNat + 1 ≥ Config.memSize then none
  else some (wordOfBytes (s.mem.read s.pc.toNat) (s.mem.read (s.pc.toNat + 1)))

/-- The word `op` stored where `fetch` reads, high byte first; for the host's `withFetchWord`. -/
def State.placeWord (s : State) (op : Word) : State :=
  { s with mem := (s.mem.write s.pc.toNat (hiByte op)).write (s.pc.toNat + 1) (loByte op) }

end Sys2Proof.Machine
end

