-- ==== Sys2Proof/Machine/Display.lean ====
section
/-!
DEFINITION. 00E0, clear screen (spec 41_display_clear.md).
-/

namespace Sys2Proof.Machine

/-- 00E0: every display cell <- 0; the collision flag is not written (R120). -/
def exec00E0 (s : State) : Host.Outcome State Fault Refusal := .next s.clearDisplay

end Sys2Proof.Machine
end

