-- ==== Sys2Proof/Machine/Operands.lean ====
section
/-!
DEFINITION. The operand forms: general registers (spec 10_state.md R21) and immediates (30_encoding.md
R82). No register is hard-wired, banked or aliased (R21).
-/

namespace Sys2Proof.Machine

/-- V[x]. -/
def State.readV (s : State) (x : RegIdx) : Byte := s.v[x]

/-- V[x] <- b. -/
def State.writeV (s : State) (x : RegIdx) (b : Byte) : State := { s with v := s.v.set x b }

/-- NNN as an address: zero-extended to 16 bits, unscaled (R82). -/
def addrOperand (nnn : Addr12) : Word := nnn.setWidth 16

/-- The block's one addition: modulo 256, no carry out (R141, R143). -/
def addByte (a b : Byte) : Byte := a + b

end Sys2Proof.Machine
end

