-- ==== Sys2Proof/Machine/Immediate.lean ====
section
/-!
DEFINITION. 6XNN, 7XNN and ANNN, the register and index immediates (spec 43_register_immediate.md).
-/

namespace Sys2Proof.Machine

/-- 6XNN: V[x] <- NN (R140). -/
def exec6XNN (x : RegIdx) (nn : Byte) (s : State) : Host.Outcome State Fault Refusal :=
  .next (s.writeV x nn)

/-- 7XNN: V[x] <- (V[x] + NN) mod 256, no carry flag (R141). -/
def exec7XNN (x : RegIdx) (nn : Byte) (s : State) : Host.Outcome State Fault Refusal :=
  .next (s.writeV x (addByte (s.readV x) nn))

/-- ANNN: I <- NNN (R142). -/
def execANNN (nnn : Addr12) (s : State) : Host.Outcome State Fault Refusal :=
  .next (s.setI (addrOperand nnn))

end Sys2Proof.Machine
end

