-- ==== Sys2Proof/Machine/Jump.lean ====
section
/-!
DEFINITION. 1NNN, the block's only control transfer (spec 42_jump.md).
-/

namespace Sys2Proof.Machine

/-- 1NNN: PC <- NNN, over the PC the advance wrote; any target is taken (R130, R131). -/
def exec1NNN (nnn : Addr12) (s : State) : Host.Outcome State Fault Refusal :=
  .next (s.setPc (addrOperand nnn))

end Sys2Proof.Machine
end

