-- ==== Sys2Proof/Machine/NoOp.lean ====
section
/-!
DEFINITION. The no-op words: every word outside the six instructions (spec 40_step_cycle.md R107 to
R109), and the unimplemented-opcode event such a word reports (60_exceptions.md R206).
-/

namespace Sys2Proof.Machine

/-- The two classes of an unimplemented word (R84, R109, D9). -/
inductive UnimplClass where
  /-- A class-0 word other than 0x00E0 (R107). -/
  | zeroGroup
  /-- A word whose class has no case (R108). -/
  | noCase
deriving DecidableEq, Repr

/-- What a no-op does to the state: nothing beyond the PC advance and the tick around it (R108). Its
event is an output and no architectural state (R206, log 5). -/
def noOp (s : State) : Host.Outcome State Fault Refusal := .next s

/-- A class-0 other than 0x00E0 word: no-op (R108). -/
def execNopZeroGroup (_w : BitVec 12) (s : State) : Host.Outcome State Fault Refusal := noOp s

/-- A class-2 word: no-op (R108). -/
def execNopClass2 (_w : BitVec 12) (s : State) : Host.Outcome State Fault Refusal := noOp s

/-- A class-3 word: no-op (R108). -/
def execNopClass3 (_w : BitVec 12) (s : State) : Host.Outcome State Fault Refusal := noOp s

/-- A class-4 word: no-op (R108). -/
def execNopClass4 (_w : BitVec 12) (s : State) : Host.Outcome State Fault Refusal := noOp s

/-- A class-5 word: no-op (R108). -/
def execNopClass5 (_w : BitVec 12) (s : State) : Host.Outcome State Fault Refusal := noOp s

/-- A class-8 word: no-op (R108). -/
def execNopClass8 (_w : BitVec 12) (s : State) : Host.Outcome State Fault Refusal := noOp s

/-- A class-9 word: no-op (R108). -/
def execNopClass9 (_w : BitVec 12) (s : State) : Host.Outcome State Fault Refusal := noOp s

/-- A class-B word: no-op (R108). -/
def execNopClassB (_w : BitVec 12) (s : State) : Host.Outcome State Fault Refusal := noOp s

/-- A class-C word: no-op (R108). -/
def execNopClassC (_w : BitVec 12) (s : State) : Host.Outcome State Fault Refusal := noOp s

/-- A class-E word: no-op (R108). -/
def execNopClassE (_w : BitVec 12) (s : State) : Host.Outcome State Fault Refusal := noOp s

/-- A class-F word: no-op (R108). -/
def execNopClassF (_w : BitVec 12) (s : State) : Host.Outcome State Fault Refusal := noOp s

/-- The class of the event an instruction emits: none for the six instructions, ZERO_GROUP or NO_CASE for
a no-op (R108, R109). -/
def unimplClass : Instr → Option UnimplClass
  | .op00E0 => none
  | .op1NNN _ => none
  | .op6XNN _ _ => none
  | .op7XNN _ _ => none
  | .opANNN _ => none
  | .opDXYN _ _ _ => none
  | .nopZeroGroup _ => some .zeroGroup
  | .nopClass2 _ => some .noCase
  | .nopClass3 _ => some .noCase
  | .nopClass4 _ => some .noCase
  | .nopClass5 _ => some .noCase
  | .nopClass8 _ => some .noCase
  | .nopClass9 _ => some .noCase
  | .nopClassB _ => some .noCase
  | .nopClassC _ => some .noCase
  | .nopClassE _ => some .noCase
  | .nopClassF _ => some .noCase

/-- The event record of a STEP that executed `i`, fetched as the word `op`: `unimpl = none` or
`unimpl = (class, opcode)` (10_state.md R37, R206). -/
def unimplEvent (i : Instr) (op : Word) : Option (UnimplClass × Word) :=
  (unimplClass i).map fun c => (c, op)

end Sys2Proof.Machine
end

