-- ==== Sys2Proof/Machine/Flags.lean ====
section
/-!
DEFINITION. The collision flag, the block's only flag: V[0xF] (spec 10_state.md R23). Only DXYN writes
it as a flag; 7XNN produces no carry (R141).
-/

namespace Sys2Proof.Machine

/-- The number of the collision-flag register. -/
def collisionReg : RegIdx := 0xF

/-- V[0xF] <- 0, before drawing (R162). -/
def State.clearCollision (s : State) : State := s.writeV collisionReg 0

/-- If the cell about to be inverted is lit, V[0xF] <- 1; it is never cleared again within the draw
(R166). -/
def State.noteCollision (s : State) (idx : CellIdx) : State :=
  if s.cell idx then s.writeV collisionReg 1 else s

end Sys2Proof.Machine
end

