-- ==== Sys2Proof/Machine/Sprite.lean ====
section
/-!
DEFINITION. DXYN, draw sprite with collision (spec 44_sprite_draw.md R160 to R171).
-/

namespace Sys2Proof.Machine

/-- `idx <- px + py*64` with `px = (vx + c) mod 64` and `py = (vy + r) mod 32`, the sums on unbounded
integers (R165, R143). -/
def pixelIndex (vx vy : Byte) (r c : Nat) : CellIdx :=
  ⟨(vx.toNat + c) % 64 + (vy.toNat + r) % 32 * 64, by omega⟩

/-- Column `c` of a sprite byte is bit 7 - c (R163). -/
def spriteBit (row : Byte) (c : Nat) : Bool := row.getLsbD (7 - c)

/-- The register value a pixel's coordinate is taken from: the value read before the draw (LATCHED) or
the register's value now (LIVE) (R164). -/
def coordinate (mode : Config.DrawCoordRead) (latched : Byte) (x : RegIdx) (s : State) : Byte :=
  match mode with
  | .latched => latched
  | .live => s.readV x

/-- One set sprite bit: the collision test reads the cell before the same pixel's inversion (R166),
then the cell is inverted (R167). -/
def invertCell (idx : CellIdx) (s : State) : State :=
  let t := s.noteCollision idx
  t.setCell idx (!t.cell idx)

/-- Column `c` of row `r`: a set bit draws its pixel, a clear bit does nothing (R163 to R167). `vx` and
`vy` are the coordinates latched before the draw. -/
def drawPixel (mode : Config.DrawCoordRead) (vx vy : Byte) (x y : RegIdx) (row : Byte) (r : Nat)
    (s : State) (c : Nat) : State :=
  if spriteBit row c then
    invertCell (pixelIndex (coordinate mode vx x s) (coordinate mode vy y s) r c) s
  else s

/-- Row `r`: read the byte at I + r, then columns 0 to 7 in order (R163). The read is in bounds by the
check of R161. -/
def drawRow (mode : Config.DrawCoordRead) (vx vy : Byte) (x y : RegIdx) (s : State) (r : Nat) : State :=
  (List.range 8).foldl
    (drawPixel mode vx vy x y (s.mem.read (s.i.toNat + r)) r) s

/-- The rows of a draw: latch the coordinates, clear the collision flag, then rows 0 to n - 1 in order
(R162 to R168). -/
def drawRows (mode : Config.DrawCoordRead) (x y : RegIdx) (n : Nat) (s : State) : State :=
  (List.range n).foldl (drawRow mode (s.readV x) (s.readV y) x y) s.clearCollision

/-- The draw after the bound check. It writes the register file (V[0xF] only, R20) and the display, and
leaves I, MEM, KEYS and every other element alone (R170). -/
def drawSprite (mode : Config.DrawCoordRead) (x y : RegIdx) (n : Nat) (s : State) : State :=
  let t := drawRows mode x y n s
  { s with v := t.v, disp := t.disp }

/-- `N > 0 and I + N - 1 >= 4096` (R161). -/
abbrev spriteOutOfBounds (n : Nat) (s : State) : Prop :=
  n > 0 ∧ s.i.toNat + n - 1 ≥ Config.memSize

/-- DXYN for a given DRAW_COORD_READ (R170): the bound check first, with the fault precise (R161, R202);
then the draw. -/
def drawOrFault (mode : Config.DrawCoordRead) (x y : RegIdx) (n : Nat) (s : State) : State :=
  if spriteOutOfBounds n s then s.raiseMemoryOutOfBounds .spriteOob s.instrAddr
  else drawSprite mode x y n s

/-- DXYN (R160, R170), with this machine's DRAW_COORD_READ. -/
def execDXYN (x y : RegIdx) (n : Fin 16) (s : State) : Host.Outcome State Fault Refusal :=
  .next (drawOrFault Config.drawCoordRead x y n.val s)

end Sys2Proof.Machine
end

