-- ==== Sys2Proof/Machine/Dispatch.lean ====
section
/-!
DEFINITION. The dispatch: one arm per instruction, each one call of its meaning (spec 40_step_cycle.md
R106). `exec` runs with PC already advanced past the instruction (R104); the tick follows it (R110).
-/

namespace Sys2Proof.Machine

def exec (i : Instr) (s : State) : Host.Outcome State Fault Refusal :=
  match i with
  | .op00E0 => Sys2Proof.Machine.exec00E0 s
  | .op1NNN nnn => Sys2Proof.Machine.exec1NNN nnn s
  | .op6XNN x nn => Sys2Proof.Machine.exec6XNN x nn s
  | .op7XNN x nn => Sys2Proof.Machine.exec7XNN x nn s
  | .opANNN nnn => Sys2Proof.Machine.execANNN nnn s
  | .opDXYN x y n => Sys2Proof.Machine.execDXYN x y n s
  | .nopZeroGroup w => Sys2Proof.Machine.execNopZeroGroup w s
  | .nopClass2 w => Sys2Proof.Machine.execNopClass2 w s
  | .nopClass3 w => Sys2Proof.Machine.execNopClass3 w s
  | .nopClass4 w => Sys2Proof.Machine.execNopClass4 w s
  | .nopClass5 w => Sys2Proof.Machine.execNopClass5 w s
  | .nopClass8 w => Sys2Proof.Machine.execNopClass8 w s
  | .nopClass9 w => Sys2Proof.Machine.execNopClass9 w s
  | .nopClassB w => Sys2Proof.Machine.execNopClassB w s
  | .nopClassC w => Sys2Proof.Machine.execNopClassC w s
  | .nopClassE w => Sys2Proof.Machine.execNopClassE w s
  | .nopClassF w => Sys2Proof.Machine.execNopClassF w s

end Sys2Proof.Machine
end

