-- ==== Sys2Proof/Machine/Cycle.lean ====
section
/-!
DEFINITION. The STEP transaction (spec 40_step_cycle.md R100 to R115): fetch, PC advance, dispatch,
timer tick, with the response and the event record of 10_state.md R36 and R37.
-/

namespace Sys2Proof.Machine

/-- The response of a STEP (R36), with the event record of a STEP that is not refused (R37). A faulting
STEP has no event (R202), so only OK carries one. -/
inductive StepResponse where
  /-- OK, with `unimpl = none` or `unimpl = (class, opcode)`. -/
  | ok (unimpl : Option (UnimplClass × Word))
  /-- FAULT(cause). -/
  | fault (cause : FaultCause)
  /-- REFUSED_FAULTED. -/
  | refusedFaulted
deriving DecidableEq, Repr

/-- Parts 4 and 5 of a STEP after the fetch of `op` (R106 to R111): run the instruction with PC past it;
a fault ends the STEP without the tick (R110, R202). -/
def runWord (op : Word) (s : State) : Host.Outcome (State × StepResponse) Fault Refusal :=
  match exec (decode op) s.advancePc with
  | .next t =>
    if t.faulted then .next (t, .fault t.faultCause)
    else .next (t.tick, .ok (unimplEvent (decode op) op))
  | .fault f => .fault f
  | .refused r => .refused r

/-- The STEP transaction, complete (R113): the state after it and its response. A faulted block changes
nothing and answers REFUSED_FAULTED (R101). -/
def stepTransaction (s : State) : Host.Outcome (State × StepResponse) Fault Refusal :=
  if s.faulted then .next (s, .refusedFaulted)
  else
    match s.fetch with
    | none => .next (s.raiseMemoryOutOfBounds .fetchOob s.pc, .fault .fetchOob)
    | some op => runWord op s

/-- One step of the machine: the state a STEP leaves. A fault is a next state (R202, log 4); a refused
STEP runs nothing and stops the machine under its own name (R101, U6, log 3). -/
def cycle (s : State) : Host.Outcome State Fault Refusal :=
  match stepTransaction s with
  | .next (t, .ok _) => .next t
  | .next (t, .fault _) => .next t
  | .next (_, .refusedFaulted) => .fault .refusedFaulted
  | .fault f => .fault f
  | .refused r => .refused r

end Sys2Proof.Machine
end

