-- ==== Sys2Proof/Machine/Step.lean ====
section
/-!
DEFINITION. The step function, and the host's way to put a word where it fetches next.
-/

namespace Sys2Proof.Machine

/-- One STEP transaction (spec 40_step_cycle.md R113), coded in Machine/Cycle.lean. -/
def step (s : State) : Host.Outcome State Fault Refusal := cycle s

/-- `s` with a table row's word (`nbits` bits of `w`) stored at PC, high byte first (20_memory.md R65):
the next STEP of a block that is not faulted fetches it. It stands for the LOAD_ROM that brings a
program (log 6). -/
def State.withFetchWord (s : State) (nbits w : Nat) : State :=
  s.placeWord (BitVec.ofNat 16 (w % 2 ^ nbits))

end Sys2Proof.Machine
end

