-- ==== Sys2Proof/Machine/Transactions.lean ====
section
/-!
DEFINITION. The host's transactions beside STEP (spec 10_state.md R36, 70_reset_and_hazards.md R230 to
R238) and the read-only accessors (R35). Each transaction is atomic and they come one at a time (R240).
-/

namespace Sys2Proof.Machine

/-- The four host transactions and their inputs (R36). -/
inductive Transaction where
  /-- RESET (R230). -/
  | reset
  /-- STEP (R113). -/
  | step
  /-- LOAD_ROM with a raw byte sequence (R234). -/
  | loadRom (bytes : List Byte)
  /-- KEY_WRITE with a 16-bit key vector (R238). -/
  | keyWrite (keysIn : BitVec 16)
deriving DecidableEq, Repr

/-- The responses (R36): a STEP's own, or OK or ROM_TOO_LARGE. -/
inductive Response where
  | ok
  | romTooLarge
  | step (r : StepResponse)
deriving DecidableEq, Repr

/-- LOAD_ROM (R233 to R235): a sequence longer than 3584 bytes is refused with no state change (R205);
otherwise Reset, then byte k to address 0x200 + k. -/
def loadRom (bytes : List Byte) (s : State) : State × Response :=
  if bytes.length > Config.romMax then (s, .romTooLarge)
  else
    let t := s.resetBlock
    ({ t with mem := t.mem.writeBytes Config.entry bytes }, .ok)

/-- KEY_WRITE: KEYS[k] <- bit k of keys_in, and nothing else, also in the faulted state (R238). -/
def keyWrite (keysIn : BitVec 16) (s : State) : State :=
  { s with keys := Vector.ofFn fun k => keysIn.getLsbD k.val }

/-- One host transaction: the state after it and its response. -/
def transact (tr : Transaction) (s : State) : Host.Outcome (State × Response) Fault Refusal :=
  match tr with
  | .reset => .next (s.resetBlock, .ok)
  | .step =>
    match stepTransaction s with
    | .next (t, r) => .next (t, .step r)
    | .fault f => .fault f
    | .refused r => .refused r
  | .loadRom bytes => .next (loadRom bytes s)
  | .keyWrite keysIn => .next (keyWrite keysIn s, .ok)

/-- What the host can read between transactions (R35, R239). MEM and KEYS have no read accessor (D1). -/
structure Accessors where
  disp : Vector Bool 2048
  v : Vector Byte 16
  pc : Word
  i : Word
  dt : Byte
  st : Byte
  faulted : Bool
  faultCause : BitVec 2
  faultPc : Word
deriving DecidableEq, Repr

/-- The accessors of a state; reading them changes nothing (R35). -/
def State.accessors (s : State) : Accessors where
  disp := s.disp
  v := s.v
  pc := s.pc
  i := s.i
  dt := s.dt
  st := s.st
  faulted := s.faulted
  faultCause := s.faultCause.code
  faultPc := s.faultPc

end Sys2Proof.Machine
end

