-- ==== Sys2Proof/Safety.lean ====
section
/-!
DEFINITION. The terms claims are stated in: when a STEP fetches a word, what two states have in common,
what a sprite covers, and the invariant of every reachable state (spec 10_state.md R40).
-/

namespace Sys2Proof.Machine

/-- A run is safe while the block is not in the faulted state (R32). -/
def State.Running (s : State) : Prop := s.faulted = false

/-- The next STEP of `s` fetches the word of value `v`: the block is not faulted (R101), PC + 1 lies in
memory (R102), and the two bytes at PC, high byte first, have the value `v` (R65, R103). -/
structure State.Fetches (s : State) (v : Nat) : Prop where
  running : s.Running
  inMemory : s.pc.toNat + 1 < 4096
  word : (s.mem.read s.pc.toNat).toNat * 256 + (s.mem.read (s.pc.toNat + 1)).toNat = v

/-! ## Frames -/

/-- Every byte of memory reads the same in both states. -/
def State.SameMem (s t : State) : Prop := ∀ a, t.mem.read a = s.mem.read a

/-- Every general register is the same. -/
def State.SameRegs (s t : State) : Prop := ∀ k, t.readV k = s.readV k

/-- Every display cell is the same. -/
def State.SameDisp (s t : State) : Prop := ∀ j, t.cell j = s.cell j

/-- The three fault fields are the same. -/
def State.SameFault (s t : State) : Prop :=
  t.faulted = s.faulted ∧ t.faultCause = s.faultCause ∧ t.faultPc = s.faultPc

/-- Both timers are the same. -/
def State.SameTimers (s t : State) : Prop := t.dt = s.dt ∧ t.st = s.st

/-- Memory, key state, timers and fault fields are the same: what no instruction that completes writes. -/
def State.SameUnwritten (s t : State) : Prop :=
  s.SameMem t ∧ t.keys = s.keys ∧ s.SameTimers t ∧ s.SameFault t

/-! ## What a sprite covers -/

/-- Bit 7 - c of the sprite byte at I + r is set, for a row r < n and a column c < 8 (R163). -/
def State.SpritePixel (s : State) (n r c : Nat) : Prop :=
  r < n ∧ c < 8 ∧ (s.mem.read (s.i.toNat + r)).toNat / 2 ^ (7 - c) % 2 = 1

/-- The place of column c of row r of a sprite whose top-left corner is (vx, vy): (vx + c) mod 64 plus
64 times (vy + r) mod 32 (R165). -/
def cellAt (vx vy : Byte) (r c : Nat) : Nat := (vx.toNat + c) % 64 + 64 * ((vy.toNat + r) % 32)

/-- A cell of the display by its place. -/
def State.lit (s : State) (p : Nat) : Prop := ∃ j : CellIdx, j.val = p ∧ s.cell j = true

/-! ## The invariant of every reachable state -/

/-- R40, together with the canonical form of memory and the record of a fault. The bounds of R40 on V, on
DISP and on the width of a register are the types'. -/
structure State.Inv (s : State) : Prop where
  /-- Memory is in its canonical form. -/
  memWf : s.mem.wf = true
  /-- MEM[0x000..0x04F] = FONT. -/
  font : ∀ a, (h : a < 80) → s.mem.read a = Config.font[a]
  /-- MEM[0x050..0x1FF] = 0x00. -/
  low : ∀ a, 80 ≤ a → a < 0x200 → s.mem.read a = 0
  /-- PC ≤ 0x1000 (R25). -/
  pc : s.pc.toNat ≤ 0x1000
  /-- I ≤ 0xFFF (R26). -/
  i : s.i.toNat ≤ 0xFFF
  /-- DT = 0 (R27). -/
  dt : s.dt = 0
  /-- ST = 0 (R28). -/
  st : s.st = 0
  /-- FAULTED = 0 implies FAULT_CAUSE = 0 and FAULT_PC = 0. -/
  noFault : s.faulted = false → s.faultCause = .none ∧ s.faultPc = 0
  /-- FAULTED = 1 comes with a cause, and FAULT_PC is the PC the fault left (R32, R202). -/
  fault : s.faulted = true → s.faultCause ≠ .none ∧ s.faultPc = s.pc

end Sys2Proof.Machine
end

