-- ==== Sys2Proof/Certificates/Slice0/Obligations.lean ====
section
/-!
DEFINITION. The statements for the provers. Each docstring names the rules of spec/ it formalises; where a
clause rests on a decision or an inference that the spec marks as its own (D<n>, "derived"), it says so.
-/

open Sys2Proof Sys2Proof.Machine

/-! ## Encoding -/

/-- Decoding the word, or the stored bytes, of a well-formed instruction gives the instruction back, with
every operand at every value (30_encoding.md, Opcode map and Assembler syntax). -/
def Obligations.DecodeOfEncodeIsIdentity : Prop :=
  ∀ i : Instr, i.wellFormed = true →
    decode (encode i) = i ∧ ∀ rest, decodeBytes (encodeBytes i ++ rest) = .ok (i, rest)

/-- Every one of the 65536 words is the encoding of exactly one well-formed instruction, the one it decodes
to (30_encoding.md, Opcode map: the decoder is total and unambiguous). -/
def Obligations.EveryWordIsOneInstruction : Prop :=
  ∀ op : Word, (decode op).wellFormed = true ∧ encode (decode op) = op ∧
    ∀ i : Instr, i.wellFormed = true → encode i = op → i = decode op

/-- R81, R84: what the words of each class decode to, the fields written as numbers. Every word has one of
these 17 forms. (The event classes that R84's map also names are decision D9's, and stand in
EventClassOfEveryWord.) -/
def Obligations.OpcodeMap : Prop :=
  ∀ (x y n : Fin 16) (nn : Byte) (a : BitVec 12),
    decode (BitVec.ofNat 16 0x00E0) = .op00E0 ∧
    (a.toNat ≠ 0x0E0 → decode (BitVec.ofNat 16 (0x0000 + a.toNat)) = .nopZeroGroup a) ∧
    decode (BitVec.ofNat 16 (0x1000 + a.toNat)) = .op1NNN a ∧
    decode (BitVec.ofNat 16 (0x2000 + a.toNat)) = .nopClass2 a ∧
    decode (BitVec.ofNat 16 (0x3000 + a.toNat)) = .nopClass3 a ∧
    decode (BitVec.ofNat 16 (0x4000 + a.toNat)) = .nopClass4 a ∧
    decode (BitVec.ofNat 16 (0x5000 + a.toNat)) = .nopClass5 a ∧
    decode (BitVec.ofNat 16 (0x6000 + x.val * 256 + nn.toNat)) = .op6XNN x nn ∧
    decode (BitVec.ofNat 16 (0x7000 + x.val * 256 + nn.toNat)) = .op7XNN x nn ∧
    decode (BitVec.ofNat 16 (0x8000 + a.toNat)) = .nopClass8 a ∧
    decode (BitVec.ofNat 16 (0x9000 + a.toNat)) = .nopClass9 a ∧
    decode (BitVec.ofNat 16 (0xA000 + a.toNat)) = .opANNN a ∧
    decode (BitVec.ofNat 16 (0xB000 + a.toNat)) = .nopClassB a ∧
    decode (BitVec.ofNat 16 (0xC000 + a.toNat)) = .nopClassC a ∧
    decode (BitVec.ofNat 16 (0xD000 + x.val * 256 + y.val * 16 + n.val)) = .opDXYN x y n ∧
    decode (BitVec.ofNat 16 (0xE000 + a.toNat)) = .nopClassE a ∧
    decode (BitVec.ofNat 16 (0xF000 + a.toNat)) = .nopClassF a

/-- The event each word reports when it runs: none for the six instructions, (ZERO_GROUP, op) for every other
class-0 word, (NO_CASE, op) for the words of the ten classes without a case; and the class by
constructor (40_step_cycle.md, Part 4; the event and its two classes are the spec's decision D9). -/
def Obligations.EventClassOfEveryWord : Prop :=
  (∀ op : Word,
    (op.toNat = 0x00E0 ∨ op.toNat / 4096 ∈ [1, 6, 7, 10, 13] → unimplEvent (decode op) op = none) ∧
    (op.toNat ≠ 0x00E0 → op.toNat / 4096 = 0 → unimplEvent (decode op) op = some (.zeroGroup, op)) ∧
    (op.toNat / 4096 ∈ [2, 3, 4, 5, 8, 9, 11, 12, 14, 15] →
      unimplEvent (decode op) op = some (.noCase, op))) ∧
  ∀ (x y n : Fin 16) (nn : Byte) (a : BitVec 12),
    unimplClass (.nopZeroGroup a) = some .zeroGroup ∧
    (∀ i ∈ [Instr.nopClass2 a, .nopClass3 a, .nopClass4 a, .nopClass5 a, .nopClass8 a, .nopClass9 a,
        .nopClassB a, .nopClassC a, .nopClassE a, .nopClassF a], unimplClass i = some .noCase) ∧
    (∀ i ∈ [Instr.op00E0, .op1NNN a, .op6XNN x nn, .op7XNN x nn, .opANNN a, .opDXYN x y n],
      unimplClass i = none)

/-- A few words of the spec's examples decode to the instruction they stand for (sanity). -/
def Obligations.ExampleWordsDecode : Prop :=
  decode 0x00E0 = .op00E0 ∧ decode 0x1208 = .op1NNN 0x208 ∧ decode 0x6A42 = .op6XNN 0xA 0x42 ∧
  decode 0x7305 = .op7XNN 0x3 0x05 ∧ decode 0xA21E = .opANNN 0x21E ∧
  decode 0xD011 = .opDXYN 0x0 0x1 0x1 ∧ decode 0x00EE = .nopZeroGroup 0x0EE ∧
  decode 0x8014 = .nopClass8 0x014 ∧ decode 0xF015 = .nopClassF 0x015

/-! ## Fetch and the STEP around an instruction -/

/-- R65, R103: where PC and PC + 1 lie in memory, at an even or an odd PC, the fetched opcode is the byte at
PC times 256 plus the byte at PC + 1. -/
def Obligations.FetchIsBigEndian : Prop :=
  ∀ s : State, s.pc.toNat + 1 < 4096 →
    ∃ op, s.fetch = some op ∧
      op.toNat = (s.mem.read s.pc.toNat).toNat * 256 + (s.mem.read (s.pc.toNat + 1)).toNat

/-- A STEP of a block that is not faulted, whose two bytes at PC decode to i, is exec of i with PC moved
past the word, and then the tick of both timers unless i faulted (40_step_cycle.md, The whole step; no
tick in a faulting STEP is the spec's decision D4, the sound timer and its tick its decision D8). -/
def Obligations.StepRunsDecodedInstruction : Prop :=
  ∀ (s : State) (i : Instr), s.Running → s.pc.toNat + 1 < 4096 →
    decodeBytes [s.mem.read s.pc.toNat, s.mem.read (s.pc.toNat + 1)] = .ok (i, []) →
    i.wellFormed = true ∧
    step s =
      match exec i { s with pc := s.pc + 2 } with
      | .next t => .next (if t.faulted = true then t
          else { t with dt := if t.dt = 0 then 0 else t.dt - 1, st := if t.st = 0 then 0 else t.st - 1 })
      | .fault f => .fault f
      | .refused r => .refused r

/-- A STEP of a block that is not faulted leaves a next state, whatever the memory holds. Its response is
OK with the block still running and the fault fields untouched, or FAULT with the cause now in
FAULT_CAUSE (60_exceptions.md, Priority; the split into responses is the spec's decision D1, D4). -/
def Obligations.EveryStepCompletes : Prop :=
  ∀ s : State, s.Running →
    ∃ t r, stepTransaction s = .next (t, r) ∧ step s = .next t ∧
      ((∃ ev, r = .ok ev ∧ s.SameFault t) ∨
       (r = .fault t.faultCause ∧ t.faulted = true ∧ t.faultCause ≠ .none))

/-- In a STEP with the response OK each of DT and ST counts down by one with floor zero, whatever the word
was; a faulting or refused STEP leaves both as they were (40_step_cycle.md, Part 5; the sound timer is
the spec's decision D8, no tick in a faulting STEP its decision D4). -/
def Obligations.TimersTickOncePerStep : Prop :=
  ∀ (s t : State) (r : StepResponse), stepTransaction s = .next (t, r) →
    (∀ ev, r = .ok ev → t.dt.toNat = s.dt.toNat - 1 ∧ t.st.toNat = s.st.toNat - 1) ∧
    ((∀ ev, r ≠ .ok ev) → s.SameTimers t)

/-- PC after a STEP: NNN for 1NNN, PC + 2 for every other word that does not fault, unchanged when the STEP
faults or is refused (40_step_cycle.md, The whole step: an inference the spec marks as derived; PC in a
faulting STEP is its decision D4, the refusal its decision D3). -/
def Obligations.ProgramCounterAfterStep : Prop :=
  ∀ (s t : State) (r : StepResponse), stepTransaction s = .next (t, r) →
    (∀ ev v, r = .ok ev → s.Fetches v →
      (v / 4096 = 1 → t.pc.toNat = v % 4096) ∧ (v / 4096 ≠ 1 → t.pc.toNat = s.pc.toNat + 2)) ∧
    ((∀ ev, r ≠ .ok ev) → t.pc = s.pc)

/-! ## The instructions, as a whole STEP -/

/-- R120: the word 0x00E0 turns every cell off, whatever the display held; PC is PC + 2, V, I, MEM and KEYS
are unchanged, DT ticks (R110), and the block has not faulted. (The response, ST and the fault record
stand in InstructionStepsReportNoEvent.) -/
def Obligations.ClearScreenStep : Prop :=
  ∀ s : State, s.Fetches 0x00E0 →
    ∃ t, step s = .next t ∧ (∀ j, t.cell j = false) ∧ t.pc.toNat = s.pc.toNat + 2 ∧ s.SameRegs t ∧
      t.i = s.i ∧ s.SameMem t ∧ t.keys = s.keys ∧ t.dt.toNat = s.dt.toNat - 1 ∧ t.Running

/-- R130: a class-1 word sets PC to NNN exactly, even, odd or below 0x200; V, I, DISP, MEM and KEYS are
unchanged, DT ticks (R110), and the block has not faulted; with NNN = 0xFFF the next STEP is a fetch
fault. (The response, ST and the fault record stand in InstructionStepsReportNoEvent.) -/
def Obligations.JumpStep : Prop :=
  ∀ (s : State) (nnn : BitVec 12), s.Fetches (0x1000 + nnn.toNat) →
    ∃ t, step s = .next t ∧ t.pc.toNat = nnn.toNat ∧ s.SameRegs t ∧ t.i = s.i ∧ s.SameDisp t ∧
      s.SameMem t ∧ t.keys = s.keys ∧ t.dt.toNat = s.dt.toNat - 1 ∧ t.Running ∧
      (nnn.toNat = 0xFFF → ∃ u, stepTransaction t = .next (u, .fault .fetchOob))

/-- R140: a class-6 word loads NN into V[x], any x including 0xF; every other register, I, DISP, MEM and KEYS
are unchanged, PC is PC + 2, DT ticks (R110), and the block has not faulted. (The response, ST and the
fault record stand in InstructionStepsReportNoEvent.) -/
def Obligations.LoadImmediateStep : Prop :=
  ∀ (s : State) (x : Fin 16) (nn : Byte), s.Fetches (0x6000 + x.val * 256 + nn.toNat) →
    ∃ t, step s = .next t ∧ t.readV x = nn ∧ (∀ k, k ≠ x → t.readV k = s.readV k) ∧
      t.pc.toNat = s.pc.toNat + 2 ∧ t.i = s.i ∧ s.SameDisp t ∧ s.SameMem t ∧ t.keys = s.keys ∧
      t.dt.toNat = s.dt.toNat - 1 ∧ t.Running

/-- R141: a class-7 word adds NN to V[x] modulo 256, any x including 0xF, with no carry into V[0xF]; every
other register, I, DISP, MEM and KEYS are unchanged, PC is PC + 2, DT ticks (R110), and the block has
not faulted. (The response, ST and the fault record stand in InstructionStepsReportNoEvent.) -/
def Obligations.AddImmediateStep : Prop :=
  ∀ (s : State) (x : Fin 16) (nn : Byte), s.Fetches (0x7000 + x.val * 256 + nn.toNat) →
    ∃ t, step s = .next t ∧ (t.readV x).toNat = ((s.readV x).toNat + nn.toNat) % 256 ∧
      (∀ k, k ≠ x → t.readV k = s.readV k) ∧ t.pc.toNat = s.pc.toNat + 2 ∧ t.i = s.i ∧
      s.SameDisp t ∧ s.SameMem t ∧ t.keys = s.keys ∧ t.dt.toNat = s.dt.toNat - 1 ∧ t.Running

/-- R142: a class-A word loads NNN into I, bits 15 to 12 zero; V, DISP, MEM and KEYS are unchanged, PC is
PC + 2, DT ticks (R110), and the block has not faulted. (The response, ST and the fault record stand in
InstructionStepsReportNoEvent.) -/
def Obligations.LoadIndexStep : Prop :=
  ∀ (s : State) (nnn : BitVec 12), s.Fetches (0xA000 + nnn.toNat) →
    ∃ t, step s = .next t ∧ t.i.toNat = nnn.toNat ∧ s.SameRegs t ∧ t.pc.toNat = s.pc.toNat + 2 ∧
      s.SameDisp t ∧ s.SameMem t ∧ t.keys = s.keys ∧ t.dt.toNat = s.dt.toNat - 1 ∧ t.Running

/-- Every word outside the six instructions reports its class and its opcode and nothing else happens: V, I,
DISP, MEM, KEYS and the fault fields are unchanged, PC is PC + 2, and both timers tick (40_step_cycle.md,
Part 4 and Part 5; the event and its classes are the spec's decision D9, returned by stepTransaction as
log 5 says; the sound timer is its decision D8). -/
def Obligations.NoOpStep : Prop :=
  ∀ (s : State) (v : Nat) (c : UnimplClass), s.Fetches v → v ≠ 0x00E0 →
    ((v / 4096 = 0 ∧ c = .zeroGroup) ∨ (v / 4096 ∈ [2, 3, 4, 5, 8, 9, 11, 12, 14, 15] ∧ c = .noCase)) →
    ∃ t, stepTransaction s = .next (t, .ok (some (c, BitVec.ofNat 16 v))) ∧ step s = .next t ∧
      s.SameRegs t ∧ t.i = s.i ∧ s.SameDisp t ∧ s.SameMem t ∧ t.keys = s.keys ∧
      t.pc.toNat = s.pc.toNat + 2 ∧ t.dt.toNat = s.dt.toNat - 1 ∧
      t.st.toNat = s.st.toNat - 1 ∧ s.SameFault t

/-- The STEP of a word 00E0, 1NNN, 6XNN, 7XNN or ANNN answers OK with no event; both timers tick and the
fault fields are unchanged (40_step_cycle.md, The whole step; the response is the spec's decision D1, the
event record its decision D9, the sound timer its decision D8, the fault fields its decision D3). What
the same STEP does to every other element stands in ClearScreenStep, JumpStep, LoadImmediateStep,
AddImmediateStep and LoadIndexStep. -/
def Obligations.InstructionStepsReportNoEvent : Prop :=
  ∀ (s : State) (v : Nat), s.Fetches v → (v = 0x00E0 ∨ v / 4096 ∈ [1, 6, 7, 10]) →
    ∃ t, stepTransaction s = .next (t, .ok none) ∧ step s = .next t ∧
      t.dt.toNat = s.dt.toNat - 1 ∧ t.st.toNat = s.st.toNat - 1 ∧ s.SameFault t

/-- A class-D word whose rows lie in memory: the STEP answers OK with no event, PC is PC + 2, both timers tick,
V[0x0] to V[0xE], I, MEM, KEYS and the fault fields are unchanged, and V[0xF] is 0 or 1
(44_sprite_draw.md, the complete instruction: an inference the spec marks as derived; the response, the
event record and the sound timer are its decisions D1, D9, D8). -/
def Obligations.DrawSpriteStep : Prop :=
  ∀ (s : State) (x y n : Fin 16), s.Fetches (0xD000 + x.val * 256 + y.val * 16 + n.val) →
    (n.val = 0 ∨ s.i.toNat + n.val ≤ 4096) →
    ∃ t, stepTransaction s = .next (t, .ok none) ∧ step s = .next t ∧
      (t.readV 0xF = 0 ∨ t.readV 0xF = 1) ∧ (∀ k, k ≠ 0xF → t.readV k = s.readV k) ∧
      t.pc.toNat = s.pc.toNat + 2 ∧ t.i = s.i ∧ s.SameMem t ∧ t.keys = s.keys ∧
      t.dt.toNat = s.dt.toNat - 1 ∧ t.st.toNat = s.st.toNat - 1 ∧ s.SameFault t

/-! ## The instructions, as exec: result, completion and frame -/

/-- 6XNN and 7XNN complete in every state with their result in V[x] and everything else unchanged, the
timers and the fault fields too (43_register_immediate.md; exec runs between the PC advance and the
tick). -/
def Obligations.RegisterImmediatesComplete : Prop :=
  ∀ (s : State) (x : RegIdx) (nn : Byte),
    (∃ t, exec (.op6XNN x nn) s = .next t ∧ t.readV x = nn ∧ (∀ k, k ≠ x → t.readV k = s.readV k) ∧
      t.pc = s.pc ∧ t.i = s.i ∧ s.SameDisp t ∧ s.SameUnwritten t) ∧
    (∃ t, exec (.op7XNN x nn) s = .next t ∧ (t.readV x).toNat = ((s.readV x).toNat + nn.toNat) % 256 ∧
      (∀ k, k ≠ x → t.readV k = s.readV k) ∧
      t.pc = s.pc ∧ t.i = s.i ∧ s.SameDisp t ∧ s.SameUnwritten t)

/-- 1NNN and ANNN complete in every state with NNN in PC, or in I, and everything else unchanged
(42_jump.md, 43_register_immediate.md). -/
def Obligations.AddressImmediatesComplete : Prop :=
  ∀ (s : State) (nnn : Addr12),
    (∃ t, exec (.op1NNN nnn) s = .next t ∧ t.pc.toNat = nnn.toNat ∧ t.i = s.i ∧
      s.SameRegs t ∧ s.SameDisp t ∧ s.SameUnwritten t) ∧
    (∃ t, exec (.opANNN nnn) s = .next t ∧ t.i.toNat = nnn.toNat ∧ t.pc = s.pc ∧
      s.SameRegs t ∧ s.SameDisp t ∧ s.SameUnwritten t)

/-- 00E0 completes in every state with every cell off and everything else unchanged, V[0xF] too
(41_display_clear.md). -/
def Obligations.ClearScreenCompletes : Prop :=
  ∀ s : State, ∃ t, exec .op00E0 s = .next t ∧ (∀ j, t.cell j = false) ∧
    t.pc = s.pc ∧ t.i = s.i ∧ s.SameRegs t ∧ s.SameUnwritten t

/-- Each of the eleven no-ops completes in every state and changes nothing (40_step_cycle.md, Part 4). -/
def Obligations.NoOpsCompleteUnchanged : Prop :=
  ∀ (s : State) (w : BitVec 12),
    exec (.nopZeroGroup w) s = .next s ∧ exec (.nopClass2 w) s = .next s ∧
    exec (.nopClass3 w) s = .next s ∧ exec (.nopClass4 w) s = .next s ∧
    exec (.nopClass5 w) s = .next s ∧ exec (.nopClass8 w) s = .next s ∧
    exec (.nopClass9 w) s = .next s ∧ exec (.nopClassB w) s = .next s ∧
    exec (.nopClassC w) s = .next s ∧ exec (.nopClassE w) s = .next s ∧
    exec (.nopClassF w) s = .next s

/-- DXYN whose rows lie in memory completes, under either DRAW_COORD_READ and with any x and y: its next
state is the draw, V[0xF] is 0 or 1, and only V[0xF] and the display may differ from before
(44_sprite_draw.md). -/
def Obligations.DrawSpriteCompletes : Prop :=
  ∀ (s : State) (x y n : Fin 16), (n.val = 0 ∨ s.i.toNat + n.val ≤ 4096) →
    ∃ t, exec (.opDXYN x y n) s = .next t ∧ t = drawSprite Config.drawCoordRead x y n.val s ∧
      (t.readV 0xF = 0 ∨ t.readV 0xF = 1) ∧ (∀ k, k ≠ 0xF → t.readV k = s.readV k) ∧
      t.pc = s.pc ∧ t.i = s.i ∧ s.SameUnwritten t

/-- DXYN with N = 0 completes whatever I holds: it reads no memory, leaves every cell, and clears V[0xF]
(44_sprite_draw.md, the case N = 0: an inference the spec marks as derived). -/
def Obligations.EmptySpriteOnlyClearsFlag : Prop :=
  ∀ (s : State) (x y : RegIdx),
    ∃ t, exec (.opDXYN x y 0) s = .next t ∧ t.readV 0xF = 0 ∧ (∀ k, k ≠ 0xF → t.readV k = s.readV k) ∧
      s.SameDisp t ∧ t.pc = s.pc ∧ t.i = s.i ∧ s.SameUnwritten t

/-! ## The sprite draw -/

/-- R165, R166, R167: a set sprite bit in column c of row r inverts exactly the cell
(vx + c) mod 64 + 64 ((vy + r) mod 32), which is below 2048, and sets V[0xF] to 1 if that cell was lit
before the inversion, and otherwise leaves V[0xF]; vx and vy are the latched values, or under LIVE the
registers' values now. A clear bit changes nothing. -/
def Obligations.SpriteBitInvertsOneCell : Prop :=
  ∀ (mode : Config.DrawCoordRead) (lx ly row : Byte) (x y : RegIdx) (r c : Nat) (s : State), c < 8 →
    let vx := if mode = .latched then lx else s.readV x
    let vy := if mode = .latched then ly else s.readV y
    let t := drawPixel mode lx ly x y row r s c
    (row.toNat / 2 ^ (7 - c) % 2 = 0 → t = s) ∧
    (row.toNat / 2 ^ (7 - c) % 2 = 1 →
      cellAt vx vy r c < 2048 ∧
      (∀ j : CellIdx, t.cell j = if j.val = cellAt vx vy r c then !s.cell j else s.cell j) ∧
      (s.lit (cellAt vx vy r c) → t.readV 0xF = 1) ∧
      (¬ s.lit (cellAt vx vy r c) → t.readV 0xF = s.readV 0xF))

/-- The whole draw in closed form, for LATCHED with any x and y, and for LIVE with x and y other than 0xF:
exactly the cells under a set sprite bit are inverted, and V[0xF] is 1 if one of them was lit and 0
otherwise (44_sprite_draw.md; the choice of DRAW_COORD_READ is left open by the spec's decision D6). -/
def Obligations.DrawInvertsExactlyTheSprite : Prop :=
  ∀ (mode : Config.DrawCoordRead) (x y n : Fin 16) (s : State),
    (mode = .latched ∨ (x ≠ 0xF ∧ y ≠ 0xF)) →
    let t := drawSprite mode x y n.val s
    (∀ j : CellIdx, t.cell j = true ↔
      (s.cell j = true ↔
        ¬ ∃ r c, s.SpritePixel n.val r c ∧ cellAt (s.readV x) (s.readV y) r c = j.val)) ∧
    ((∃ r c, s.SpritePixel n.val r c ∧ s.lit (cellAt (s.readV x) (s.readV y) r c)) →
      t.readV 0xF = 1) ∧
    ((¬ ∃ r c, s.SpritePixel n.val r c ∧ s.lit (cellAt (s.readV x) (s.readV y) r c)) →
      t.readV 0xF = 0)

/-- The whole draw in closed form for LIVE with any x and y. A coordinate register V[0xF] reads 0 up to and
including the first colliding set bit (number k, counting 8 to a row) and 1 after it; every other
register reads its own value; exactly the cells so addressed are inverted; V[0xF] ends as 1 if some bit
collided and as 0 otherwise (44_sprite_draw.md; LIVE is one value of the parameter that decision D6
leaves open). -/
def Obligations.LiveDrawFollowsItsOwnFlag : Prop :=
  ∀ (x y n : Fin 16) (s : State),
    let place := fun (flag : Byte) (r c : Nat) =>
      cellAt (if x = 0xF then flag else s.readV x) (if y = 0xF then flag else s.readV y) r c
    let t := drawSprite .live x y n.val s
    ∃ k : Nat,
      (∀ r c, s.SpritePixel n.val r c → 8 * r + c < k → ¬ s.lit (place 0 r c)) ∧
      ((k = 8 * n.val ∧ t.readV 0xF = 0) ∨
       (∃ r c, k = 8 * r + c ∧ s.SpritePixel n.val r c ∧ s.lit (place 0 r c) ∧ t.readV 0xF = 1)) ∧
      (∀ j : CellIdx, t.cell j = true ↔
        (s.cell j = true ↔
          ¬ ∃ r c, s.SpritePixel n.val r c ∧
            place (if 8 * r + c ≤ k then 0 else 1) r c = j.val))

/-- After a DXYN whose rows lie in memory, with any x and y and under either DRAW_COORD_READ, V[0xF] is 1
exactly when at least one cell went from lit to off (44_sprite_draw.md, properties of DXYN: an inference
the spec marks as derived). -/
def Obligations.FlagSetIffCellTurnedOff : Prop :=
  ∀ (s : State) (x y n : Fin 16), (n.val = 0 ∨ s.i.toNat + n.val ≤ 4096) →
    ∃ t, exec (.opDXYN x y n) s = .next t ∧
      (t.readV 0xF = 1 ↔ ∃ j, s.cell j = true ∧ t.cell j = false)

/-- Two draws of the same sprite at the same place, x and y other than 0xF, restore every cell, and the
second sets V[0xF] exactly when the first turned a cell on (44_sprite_draw.md, properties of DXYN: an
inference the spec marks as derived). -/
def Obligations.SameDrawTwiceRestoresDisplay : Prop :=
  ∀ (s : State) (x y n : Fin 16), x ≠ 0xF → y ≠ 0xF → (n.val = 0 ∨ s.i.toNat + n.val ≤ 4096) →
    ∃ t u, exec (.opDXYN x y n) s = .next t ∧ exec (.opDXYN x y n) t = .next u ∧ s.SameDisp u ∧
      (u.readV 0xF = 1 ↔ ∃ j, s.cell j = false ∧ t.cell j = true)

/-! ## Faults -/

/-- A STEP of a running block with PC at 0xFFF or above faults with FETCH_OOB and changes the fault fields
only (40_step_cycle.md Part 1; the fault fields and their codes are the spec's decisions D3, D4, D16). -/
def Obligations.FetchPastMemoryFaults : Prop :=
  ∀ s : State, s.Running → 0xFFF ≤ s.pc.toNat →
    let t := { s with faulted := true, faultCause := .fetchOob, faultPc := s.pc }
    stepTransaction s = .next (t, .fault .fetchOob) ∧ step s = .next t ∧ t.faultCause.code = 1

/-- DXYN with a row at or above 0x1000 faults with SPRITE_OOB before any of its writes: exec puts PC back
to the DXYN word and writes the fault fields; the whole STEP changes the fault fields only, with PC at
the DXYN word (44_sprite_draw.md; the check is the spec's decision D5, the precise fault D4, the fault
fields and their codes D3 and D16; that exec finds the word's address as PC - 2, in every state, is the
model's inference, log 9). -/
def Obligations.SpritePastMemoryFaults : Prop :=
  ∀ (s : State) (x y n : Fin 16), 0 < n.val → 4096 ≤ s.i.toNat + n.val - 1 →
    exec (.opDXYN x y n) s =
      .next { s with pc := s.pc - 2, faulted := true, faultCause := .spriteOob, faultPc := s.pc - 2 } ∧
    (s.Fetches (0xD000 + x.val * 256 + y.val * 16 + n.val) →
      let t := { s with faulted := true, faultCause := .spriteOob, faultPc := s.pc }
      stepTransaction s = .next (t, .fault .spriteOob) ∧ step s = .next t ∧ t.faultCause.code = 2)

/-- The only faults: FETCH_OOB with PC at 0xFFF or above, and SPRITE_OOB of a DXYN with N > 0 and
I + N - 1 at 4096 or above. Each is precise: nothing but the fault fields differs from the start of the
STEP (60_exceptions.md, MemoryOutOfBounds; the spec's decisions D3, D4, D5). -/
def Obligations.FaultsArePreciseAndOnlyOutOfBounds : Prop :=
  ∀ (s t : State) (c : FaultCause), stepTransaction s = .next (t, .fault c) →
    t = { s with faulted := true, faultCause := c, faultPc := s.pc } ∧
    ((c = .fetchOob ∧ 0xFFF ≤ s.pc.toNat) ∨
     (c = .spriteOob ∧ ∃ x y n : Fin 16, s.Fetches (0xD000 + x.val * 256 + y.val * 16 + n.val) ∧
        0 < n.val ∧ 4096 ≤ s.i.toNat + n.val - 1))

/-- A faulted block refuses every STEP and changes nothing; `step` stops under the refusal's name
(40_step_cycle.md, The transaction: the spec's decision D3; stopping is the model's choice, log 3). -/
def Obligations.FaultedBlockRefusesStep : Prop :=
  ∀ s : State, ¬ s.Running →
    stepTransaction s = .next (s, .refusedFaulted) ∧ step s = .fault .refusedFaulted

/-- Only RESET, or a LOAD_ROM of at most 3584 bytes, takes the block out of the faulted state, and both do
(60_exceptions.md, MemoryOutOfBounds: the spec's decision D3). -/
def Obligations.OnlyResetOrLoadLeavesFault : Prop :=
  ∀ (s : State) (tr : Transaction), ¬ s.Running →
    ∃ t r, transact tr s = .next (t, r) ∧
      (t.Running ↔ (tr = .reset ∨ ∃ bytes, tr = .loadRom bytes ∧ bytes.length ≤ 3584))

/-! ## Who writes what -/

/-- What an instruction can change, whole machine: I only ANNN; a cell only 00E0 or DXYN;
V[k] only 6kNN, 7kNN or, for k = 0xF, DXYN; PC only 1NNN or a faulting DXYN; the fault fields only a
faulting DXYN; memory, key state and timers nothing (10_state.md, Inventory; the faulting DXYN is the
spec's decisions D3 to D5, and that exec moves PC back there the model's inference, log 9). -/
def Obligations.OnlyNamedInstructionsWrite : Prop :=
  ∀ (i : Instr) (s t : State), exec i s = .next t →
    s.SameMem t ∧ t.keys = s.keys ∧ s.SameTimers t ∧
    (t.i ≠ s.i → ∃ a, i = .opANNN a) ∧
    (¬ s.SameDisp t → i = .op00E0 ∨ ∃ x y n, i = .opDXYN x y n) ∧
    (∀ k, t.readV k ≠ s.readV k →
      (∃ nn, i = .op6XNN k nn) ∨ (∃ nn, i = .op7XNN k nn) ∨ (k = 0xF ∧ ∃ x y n, i = .opDXYN x y n)) ∧
    (t.pc ≠ s.pc → (∃ a, i = .op1NNN a) ∨ ((∃ x y n, i = .opDXYN x y n) ∧ t.faulted = true)) ∧
    (¬ s.SameFault t → (∃ x y n, i = .opDXYN x y n) ∧ t.faulted = true)

/-- No STEP changes a byte of memory (20_memory.md, Access widths and primitives: an inference the spec marks
as derived) or the key state, which only RESET and a key write change (10_state.md, Inventory and Key state);
a KEY_WRITE and a refused LOAD_ROM change no byte of memory (10_state.md, Inventory; 70_reset_and_hazards.md,
LoadROM and Key write; the transactions are the spec's decisions D1 and D14, log 6). -/
def Obligations.OnlyResetAndLoadWriteMemory : Prop :=
  ∀ (s t : State) (tr : Transaction) (r : Response), transact tr s = .next (t, r) →
    (tr = .step → s.SameMem t ∧ t.keys = s.keys) ∧
    ((∃ a, t.mem.read a ≠ s.mem.read a) →
      tr = .reset ∨ ∃ bytes, tr = .loadRom bytes ∧ bytes.length ≤ 3584)

/-- The key state has no effect on any instruction: with any other key state a STEP gives the same response
and the same state but for the keys, which it leaves. RESET clears the vector, and KEY_WRITE can set it
to any value, answers OK and changes nothing else (10_state.md, Key state; the KEY_WRITE transaction and
when it takes effect are the spec's decisions D1 and D14, log 6). -/
def Obligations.KeyStateInfluencesNoStep : Prop :=
  (∀ (s : State) (ks : Vector Bool 16),
    stepTransaction { s with keys := ks } =
      match stepTransaction s with
      | .next (t, r) => .next ({ t with keys := ks }, r)
      | .fault f => .fault f
      | .refused r => .refused r) ∧
  (∀ (s t : State) (r : Response), transact .reset s = .next (t, r) → ∀ k : Fin 16, t.keys[k] = false) ∧
  (∀ (s : State) (ks : Vector Bool 16), ∃ w, transact (.keyWrite w) s = .next ({ s with keys := ks }, .ok))

/-! ## Reset and the host's transactions -/

/-- RESET, from any state, answers OK, sets PC to 0x200 and fills memory with FONT at 0x000 to 0x04F and zero
elsewhere; V, I, DT, the display and the keys are zero too (20_memory.md, Address space; 10_state.md,
Reset values; 70_reset_and_hazards.md, Reset; DT by the resolution of conflict C2, the response by
decision D1). -/
def Obligations.ResetEstablishesState : Prop :=
  ∀ s : State, ∃ t, transact .reset s = .next (t, .ok) ∧ t.pc.toNat = 0x200 ∧
    (∀ a, (h : a < 80) → t.mem.read a = Config.font[a]) ∧
    (∀ a, 80 ≤ a → a < 4096 → t.mem.read a = 0) ∧
    (∀ k, t.readV k = 0) ∧ t.i = 0 ∧ t.dt = 0 ∧ (∀ j, t.cell j = false) ∧ (∀ k : Fin 16, t.keys[k] = false)

/-- RESET, from any state and in the faulted state too, clears FAULTED, FAULT_CAUSE, FAULT_PC and the sound
timer, and leaves the one state State.reset (70_reset_and_hazards.md, Reset; these fields are the spec's
decisions D3 and D8). -/
def Obligations.ResetClearsFaultAndSoundTimer : Prop :=
  ∀ s : State, ∃ t, transact .reset s = .next (t, .ok) ∧ t.faulted = false ∧ t.faultCause.code = 0 ∧
    t.faultPc = 0 ∧ t.st = 0 ∧ t = Sys2Proof.core.reset

/-- R233, R235: LOAD_ROM of more than 3584 bytes answers ROM_TOO_LARGE and changes nothing; of at most 3584
bytes it answers OK and leaves the reset state with byte k at address 0x200 + k. -/
def Obligations.LoadRomResetsAndCopies : Prop :=
  ∀ (s : State) (bytes : List Byte),
    (3584 < bytes.length → transact (.loadRom bytes) s = .next (s, .romTooLarge)) ∧
    (bytes.length ≤ 3584 → ∃ t, transact (.loadRom bytes) s = .next (t, .ok) ∧
      (∀ k, (h : k < bytes.length) → t.mem.read (0x200 + k) = bytes[k]) ∧
      (∀ a, a < 0x200 ∨ 0x200 + bytes.length ≤ a → t.mem.read a = State.reset.mem.read a) ∧
      t = { State.reset with mem := t.mem })

/-- KEY_WRITE sets each KEYS[k] to bit k of its input and changes nothing else, in a faulted block too, so
that no accessor shows it (70_reset_and_hazards.md, Key write; 10_state.md, Interface of the block: the
transaction, its bit order and the accessors are the spec's decisions D1, D14). -/
def Obligations.KeyWriteSetsKeysOnly : Prop :=
  ∀ (s : State) (w : BitVec 16), ∃ t, transact (.keyWrite w) s = .next (t, .ok) ∧
    (∀ k : Fin 16, t.keys[k] = (w.toNat / 2 ^ k.val % 2 == 1)) ∧ t = { s with keys := t.keys } ∧
    t.accessors = s.accessors

/-! ## The invariant of every reachable state -/

/-- The reset state satisfies the invariant (10_state.md, Invariants and Reset values; ST and the fault fields
are the spec's decisions D8 and D3; memory's canonical form is the model's own choice, log 8). -/
def Obligations.ResetStateSatisfiesInvariant : Prop := Sys2Proof.core.reset.Inv

/-- Every step keeps the invariant: memory's canonical form, FONT and the zero area, PC at most 0x1000, I at
most 0xFFF, DT and ST zero, and the fault fields consistent (10_state.md, Invariants: an inference the
spec marks as derived; ST and the fault fields are its decisions D8, D3, D4; memory's form is log 8). -/
def Obligations.StepKeepsInvariant : Prop :=
  ∀ s t : State, s.Inv → step s = .next t → t.Inv

/-- Every host transaction completes and keeps the invariant, whatever its input, so it holds of every state
reachable from RESET (10_state.md, Invariants: an inference the spec marks as derived; the transactions,
ST and the fault fields are its decisions D1, D8, D3, D4; memory's form is log 8). -/
def Obligations.TransactionsKeepInvariant : Prop :=
  ∀ (s : State) (tr : Transaction), s.Inv → ∃ t r, transact tr s = .next (t, r) ∧ t.Inv
end

