-- ==== Sys2Proof/Laws/State.lean ====
section
/-!
SUPPORT. What each named update does to each field of State: one lemma per field per update, and the
reads of registers and cells after a write. They unfold the updates once, so that no later proof does.
-/

namespace Sys2Proof.Machine

variable (s : State)

/-! ### setCell -/

@[simp] theorem State.setCell_mem (idx : CellIdx) (b : Bool) : (s.setCell idx b).mem = s.mem := rfl
@[simp] theorem State.setCell_v (idx : CellIdx) (b : Bool) : (s.setCell idx b).v = s.v := rfl
@[simp] theorem State.setCell_pc (idx : CellIdx) (b : Bool) : (s.setCell idx b).pc = s.pc := rfl
@[simp] theorem State.setCell_i (idx : CellIdx) (b : Bool) : (s.setCell idx b).i = s.i := rfl
@[simp] theorem State.setCell_dt (idx : CellIdx) (b : Bool) : (s.setCell idx b).dt = s.dt := rfl
@[simp] theorem State.setCell_st (idx : CellIdx) (b : Bool) : (s.setCell idx b).st = s.st := rfl
@[simp] theorem State.setCell_disp (idx : CellIdx) (b : Bool) :
    (s.setCell idx b).disp = s.disp.set idx b := rfl
@[simp] theorem State.setCell_keys (idx : CellIdx) (b : Bool) :
    (s.setCell idx b).keys = s.keys := rfl
@[simp] theorem State.setCell_faulted (idx : CellIdx) (b : Bool) :
    (s.setCell idx b).faulted = s.faulted := rfl
@[simp] theorem State.setCell_faultCause (idx : CellIdx) (b : Bool) :
    (s.setCell idx b).faultCause = s.faultCause := rfl
@[simp] theorem State.setCell_faultPc (idx : CellIdx) (b : Bool) :
    (s.setCell idx b).faultPc = s.faultPc := rfl

/-! ### clearDisplay -/

@[simp] theorem State.clearDisplay_mem : (s.clearDisplay).mem = s.mem := rfl
@[simp] theorem State.clearDisplay_v : (s.clearDisplay).v = s.v := rfl
@[simp] theorem State.clearDisplay_pc : (s.clearDisplay).pc = s.pc := rfl
@[simp] theorem State.clearDisplay_i : (s.clearDisplay).i = s.i := rfl
@[simp] theorem State.clearDisplay_dt : (s.clearDisplay).dt = s.dt := rfl
@[simp] theorem State.clearDisplay_st : (s.clearDisplay).st = s.st := rfl
@[simp] theorem State.clearDisplay_disp : (s.clearDisplay).disp = Vector.replicate 2048 false := rfl
@[simp] theorem State.clearDisplay_keys : (s.clearDisplay).keys = s.keys := rfl
@[simp] theorem State.clearDisplay_faulted : (s.clearDisplay).faulted = s.faulted := rfl
@[simp] theorem State.clearDisplay_faultCause : (s.clearDisplay).faultCause = s.faultCause := rfl
@[simp] theorem State.clearDisplay_faultPc : (s.clearDisplay).faultPc = s.faultPc := rfl

/-! ### setPc -/

@[simp] theorem State.setPc_mem (a : Word) : (s.setPc a).mem = s.mem := rfl
@[simp] theorem State.setPc_v (a : Word) : (s.setPc a).v = s.v := rfl
@[simp] theorem State.setPc_pc (a : Word) : (s.setPc a).pc = a := rfl
@[simp] theorem State.setPc_i (a : Word) : (s.setPc a).i = s.i := rfl
@[simp] theorem State.setPc_dt (a : Word) : (s.setPc a).dt = s.dt := rfl
@[simp] theorem State.setPc_st (a : Word) : (s.setPc a).st = s.st := rfl
@[simp] theorem State.setPc_disp (a : Word) : (s.setPc a).disp = s.disp := rfl
@[simp] theorem State.setPc_keys (a : Word) : (s.setPc a).keys = s.keys := rfl
@[simp] theorem State.setPc_faulted (a : Word) : (s.setPc a).faulted = s.faulted := rfl
@[simp] theorem State.setPc_faultCause (a : Word) : (s.setPc a).faultCause = s.faultCause := rfl
@[simp] theorem State.setPc_faultPc (a : Word) : (s.setPc a).faultPc = s.faultPc := rfl

/-! ### setI -/

@[simp] theorem State.setI_mem (a : Word) : (s.setI a).mem = s.mem := rfl
@[simp] theorem State.setI_v (a : Word) : (s.setI a).v = s.v := rfl
@[simp] theorem State.setI_pc (a : Word) : (s.setI a).pc = s.pc := rfl
@[simp] theorem State.setI_i (a : Word) : (s.setI a).i = a := rfl
@[simp] theorem State.setI_dt (a : Word) : (s.setI a).dt = s.dt := rfl
@[simp] theorem State.setI_st (a : Word) : (s.setI a).st = s.st := rfl
@[simp] theorem State.setI_disp (a : Word) : (s.setI a).disp = s.disp := rfl
@[simp] theorem State.setI_keys (a : Word) : (s.setI a).keys = s.keys := rfl
@[simp] theorem State.setI_faulted (a : Word) : (s.setI a).faulted = s.faulted := rfl
@[simp] theorem State.setI_faultCause (a : Word) : (s.setI a).faultCause = s.faultCause := rfl
@[simp] theorem State.setI_faultPc (a : Word) : (s.setI a).faultPc = s.faultPc := rfl

/-! ### advancePc -/

@[simp] theorem State.advancePc_mem : (s.advancePc).mem = s.mem := rfl
@[simp] theorem State.advancePc_v : (s.advancePc).v = s.v := rfl
@[simp] theorem State.advancePc_pc : (s.advancePc).pc = s.pc + 2 := rfl
@[simp] theorem State.advancePc_i : (s.advancePc).i = s.i := rfl
@[simp] theorem State.advancePc_dt : (s.advancePc).dt = s.dt := rfl
@[simp] theorem State.advancePc_st : (s.advancePc).st = s.st := rfl
@[simp] theorem State.advancePc_disp : (s.advancePc).disp = s.disp := rfl
@[simp] theorem State.advancePc_keys : (s.advancePc).keys = s.keys := rfl
@[simp] theorem State.advancePc_faulted : (s.advancePc).faulted = s.faulted := rfl
@[simp] theorem State.advancePc_faultCause : (s.advancePc).faultCause = s.faultCause := rfl
@[simp] theorem State.advancePc_faultPc : (s.advancePc).faultPc = s.faultPc := rfl

/-! ### tick -/

@[simp] theorem State.tick_mem : (s.tick).mem = s.mem := rfl
@[simp] theorem State.tick_v : (s.tick).v = s.v := rfl
@[simp] theorem State.tick_pc : (s.tick).pc = s.pc := rfl
@[simp] theorem State.tick_i : (s.tick).i = s.i := rfl
@[simp] theorem State.tick_dt : (s.tick).dt = countDown s.dt := rfl
@[simp] theorem State.tick_st : (s.tick).st = countDown s.st := rfl
@[simp] theorem State.tick_disp : (s.tick).disp = s.disp := rfl
@[simp] theorem State.tick_keys : (s.tick).keys = s.keys := rfl
@[simp] theorem State.tick_faulted : (s.tick).faulted = s.faulted := rfl
@[simp] theorem State.tick_faultCause : (s.tick).faultCause = s.faultCause := rfl
@[simp] theorem State.tick_faultPc : (s.tick).faultPc = s.faultPc := rfl

/-! ### raiseMemoryOutOfBounds -/

@[simp] theorem State.raiseMemoryOutOfBounds_mem (c : FaultCause) (a : Word) :
    (s.raiseMemoryOutOfBounds c a).mem = s.mem := rfl
@[simp] theorem State.raiseMemoryOutOfBounds_v (c : FaultCause) (a : Word) :
    (s.raiseMemoryOutOfBounds c a).v = s.v := rfl
@[simp] theorem State.raiseMemoryOutOfBounds_pc (c : FaultCause) (a : Word) :
    (s.raiseMemoryOutOfBounds c a).pc = a := rfl
@[simp] theorem State.raiseMemoryOutOfBounds_i (c : FaultCause) (a : Word) :
    (s.raiseMemoryOutOfBounds c a).i = s.i := rfl
@[simp] theorem State.raiseMemoryOutOfBounds_dt (c : FaultCause) (a : Word) :
    (s.raiseMemoryOutOfBounds c a).dt = s.dt := rfl
@[simp] theorem State.raiseMemoryOutOfBounds_st (c : FaultCause) (a : Word) :
    (s.raiseMemoryOutOfBounds c a).st = s.st := rfl
@[simp] theorem State.raiseMemoryOutOfBounds_disp (c : FaultCause) (a : Word) :
    (s.raiseMemoryOutOfBounds c a).disp = s.disp := rfl
@[simp] theorem State.raiseMemoryOutOfBounds_keys (c : FaultCause) (a : Word) :
    (s.raiseMemoryOutOfBounds c a).keys = s.keys := rfl
@[simp] theorem State.raiseMemoryOutOfBounds_faulted (c : FaultCause) (a : Word) :
    (s.raiseMemoryOutOfBounds c a).faulted = true := rfl
@[simp] theorem State.raiseMemoryOutOfBounds_faultCause (c : FaultCause) (a : Word) :
    (s.raiseMemoryOutOfBounds c a).faultCause = c := rfl
@[simp] theorem State.raiseMemoryOutOfBounds_faultPc (c : FaultCause) (a : Word) :
    (s.raiseMemoryOutOfBounds c a).faultPc = a := rfl

/-! ### placeWord -/

@[simp] theorem State.placeWord_mem (op : Word) :
    (s.placeWord op).mem = (s.mem.write s.pc.toNat (hiByte op)).write (s.pc.toNat + 1) (loByte op) := rfl
@[simp] theorem State.placeWord_v (op : Word) : (s.placeWord op).v = s.v := rfl
@[simp] theorem State.placeWord_pc (op : Word) : (s.placeWord op).pc = s.pc := rfl
@[simp] theorem State.placeWord_i (op : Word) : (s.placeWord op).i = s.i := rfl
@[simp] theorem State.placeWord_dt (op : Word) : (s.placeWord op).dt = s.dt := rfl
@[simp] theorem State.placeWord_st (op : Word) : (s.placeWord op).st = s.st := rfl
@[simp] theorem State.placeWord_disp (op : Word) : (s.placeWord op).disp = s.disp := rfl
@[simp] theorem State.placeWord_keys (op : Word) : (s.placeWord op).keys = s.keys := rfl
@[simp] theorem State.placeWord_faulted (op : Word) : (s.placeWord op).faulted = s.faulted := rfl
@[simp] theorem State.placeWord_faultCause (op : Word) :
    (s.placeWord op).faultCause = s.faultCause := rfl
@[simp] theorem State.placeWord_faultPc (op : Word) : (s.placeWord op).faultPc = s.faultPc := rfl

/-! ### writeV -/

@[simp] theorem State.writeV_mem (x : RegIdx) (b : Byte) : (s.writeV x b).mem = s.mem := rfl
@[simp] theorem State.writeV_v (x : RegIdx) (b : Byte) : (s.writeV x b).v = s.v.set x b := rfl
@[simp] theorem State.writeV_pc (x : RegIdx) (b : Byte) : (s.writeV x b).pc = s.pc := rfl
@[simp] theorem State.writeV_i (x : RegIdx) (b : Byte) : (s.writeV x b).i = s.i := rfl
@[simp] theorem State.writeV_dt (x : RegIdx) (b : Byte) : (s.writeV x b).dt = s.dt := rfl
@[simp] theorem State.writeV_st (x : RegIdx) (b : Byte) : (s.writeV x b).st = s.st := rfl
@[simp] theorem State.writeV_disp (x : RegIdx) (b : Byte) : (s.writeV x b).disp = s.disp := rfl
@[simp] theorem State.writeV_keys (x : RegIdx) (b : Byte) : (s.writeV x b).keys = s.keys := rfl
@[simp] theorem State.writeV_faulted (x : RegIdx) (b : Byte) :
    (s.writeV x b).faulted = s.faulted := rfl
@[simp] theorem State.writeV_faultCause (x : RegIdx) (b : Byte) :
    (s.writeV x b).faultCause = s.faultCause := rfl
@[simp] theorem State.writeV_faultPc (x : RegIdx) (b : Byte) :
    (s.writeV x b).faultPc = s.faultPc := rfl

/-! ### clearCollision -/

@[simp] theorem State.clearCollision_mem : (s.clearCollision).mem = s.mem := rfl
@[simp] theorem State.clearCollision_v : (s.clearCollision).v = s.v.set collisionReg 0 := rfl
@[simp] theorem State.clearCollision_pc : (s.clearCollision).pc = s.pc := rfl
@[simp] theorem State.clearCollision_i : (s.clearCollision).i = s.i := rfl
@[simp] theorem State.clearCollision_dt : (s.clearCollision).dt = s.dt := rfl
@[simp] theorem State.clearCollision_st : (s.clearCollision).st = s.st := rfl
@[simp] theorem State.clearCollision_disp : (s.clearCollision).disp = s.disp := rfl
@[simp] theorem State.clearCollision_keys : (s.clearCollision).keys = s.keys := rfl
@[simp] theorem State.clearCollision_faulted : (s.clearCollision).faulted = s.faulted := rfl
@[simp] theorem State.clearCollision_faultCause :
    (s.clearCollision).faultCause = s.faultCause := rfl
@[simp] theorem State.clearCollision_faultPc : (s.clearCollision).faultPc = s.faultPc := rfl

/-! ### noteCollision and invertCell -/

@[simp] theorem State.noteCollision_mem (idx : CellIdx) : (s.noteCollision idx).mem = s.mem := by
  unfold State.noteCollision; split <;> rfl
@[simp] theorem State.noteCollision_pc (idx : CellIdx) : (s.noteCollision idx).pc = s.pc := by
  unfold State.noteCollision; split <;> rfl
@[simp] theorem State.noteCollision_i (idx : CellIdx) : (s.noteCollision idx).i = s.i := by
  unfold State.noteCollision; split <;> rfl
@[simp] theorem State.noteCollision_dt (idx : CellIdx) : (s.noteCollision idx).dt = s.dt := by
  unfold State.noteCollision; split <;> rfl
@[simp] theorem State.noteCollision_st (idx : CellIdx) : (s.noteCollision idx).st = s.st := by
  unfold State.noteCollision; split <;> rfl
@[simp] theorem State.noteCollision_disp (idx : CellIdx) : (s.noteCollision idx).disp = s.disp := by
  unfold State.noteCollision; split <;> rfl
@[simp] theorem State.noteCollision_keys (idx : CellIdx) : (s.noteCollision idx).keys = s.keys := by
  unfold State.noteCollision; split <;> rfl
@[simp] theorem State.noteCollision_faulted (idx : CellIdx) : (s.noteCollision idx).faulted = s.faulted := by
  unfold State.noteCollision; split <;> rfl
@[simp] theorem State.noteCollision_faultCause (idx : CellIdx) : (s.noteCollision idx).faultCause = s.faultCause := by
  unfold State.noteCollision; split <;> rfl
@[simp] theorem State.noteCollision_faultPc (idx : CellIdx) : (s.noteCollision idx).faultPc = s.faultPc := by
  unfold State.noteCollision; split <;> rfl

@[simp] theorem invertCell_mem (idx : CellIdx) : (invertCell idx s).mem = s.mem := by
  simp [invertCell]
@[simp] theorem invertCell_pc (idx : CellIdx) : (invertCell idx s).pc = s.pc := by
  simp [invertCell]
@[simp] theorem invertCell_i (idx : CellIdx) : (invertCell idx s).i = s.i := by
  simp [invertCell]
@[simp] theorem invertCell_dt (idx : CellIdx) : (invertCell idx s).dt = s.dt := by
  simp [invertCell]
@[simp] theorem invertCell_st (idx : CellIdx) : (invertCell idx s).st = s.st := by
  simp [invertCell]
@[simp] theorem invertCell_keys (idx : CellIdx) : (invertCell idx s).keys = s.keys := by
  simp [invertCell]
@[simp] theorem invertCell_faulted (idx : CellIdx) : (invertCell idx s).faulted = s.faulted := by
  simp [invertCell]
@[simp] theorem invertCell_faultCause (idx : CellIdx) : (invertCell idx s).faultCause = s.faultCause := by
  simp [invertCell]
@[simp] theorem invertCell_faultPc (idx : CellIdx) : (invertCell idx s).faultPc = s.faultPc := by
  simp [invertCell]

/-! ### keyWrite -/

@[simp] theorem keyWrite_mem (k : BitVec 16) : (keyWrite k s).mem = s.mem := rfl
@[simp] theorem keyWrite_v (k : BitVec 16) : (keyWrite k s).v = s.v := rfl
@[simp] theorem keyWrite_pc (k : BitVec 16) : (keyWrite k s).pc = s.pc := rfl
@[simp] theorem keyWrite_i (k : BitVec 16) : (keyWrite k s).i = s.i := rfl
@[simp] theorem keyWrite_dt (k : BitVec 16) : (keyWrite k s).dt = s.dt := rfl
@[simp] theorem keyWrite_st (k : BitVec 16) : (keyWrite k s).st = s.st := rfl
@[simp] theorem keyWrite_disp (k : BitVec 16) : (keyWrite k s).disp = s.disp := rfl
@[simp] theorem keyWrite_faulted (k : BitVec 16) : (keyWrite k s).faulted = s.faulted := rfl
@[simp] theorem keyWrite_faultCause (k : BitVec 16) : (keyWrite k s).faultCause = s.faultCause := rfl
@[simp] theorem keyWrite_faultPc (k : BitVec 16) : (keyWrite k s).faultPc = s.faultPc := rfl

@[simp] theorem keyWrite_keys_get (ks : BitVec 16) (k : Fin 16) :
    (keyWrite ks s).keys[k] = ks.getLsbD k := by
  simp [keyWrite]

/-! ### Registers after a write (R21: no register aliases another) -/

theorem State.readV_writeV (x k : RegIdx) (b : Byte) :
    (s.writeV x b).readV k = if k = x then b else s.readV k := by
  by_cases h : k = x
  · subst h; simp [State.readV, State.writeV]
  · have h' : x.val ≠ k.val := fun e => h (Fin.ext e.symm)
    simp [State.readV, State.writeV, h, h']

@[simp] theorem State.readV_writeV_self (x : RegIdx) (b : Byte) : (s.writeV x b).readV x = b := by
  simp [State.readV_writeV]

theorem State.readV_writeV_of_ne (x k : RegIdx) (b : Byte) (h : k ≠ x) :
    (s.writeV x b).readV k = s.readV k := by
  simp [State.readV_writeV, h]

@[simp] theorem State.readV_setCell (idx : CellIdx) (b : Bool) (k : RegIdx) :
    (s.setCell idx b).readV k = s.readV k := rfl
@[simp] theorem State.readV_clearDisplay (k : RegIdx) : s.clearDisplay.readV k = s.readV k := rfl
@[simp] theorem State.readV_setPc (a : Word) (k : RegIdx) : (s.setPc a).readV k = s.readV k := rfl
@[simp] theorem State.readV_setI (a : Word) (k : RegIdx) : (s.setI a).readV k = s.readV k := rfl
@[simp] theorem State.readV_advancePc (k : RegIdx) : s.advancePc.readV k = s.readV k := rfl
@[simp] theorem State.readV_tick (k : RegIdx) : s.tick.readV k = s.readV k := rfl
@[simp] theorem State.readV_raiseMemoryOutOfBounds (c : FaultCause) (a : Word) (k : RegIdx) :
    (s.raiseMemoryOutOfBounds c a).readV k = s.readV k := rfl

theorem State.readV_clearCollision (k : RegIdx) :
    s.clearCollision.readV k = if k = collisionReg then 0 else s.readV k :=
  State.readV_writeV s collisionReg k 0

theorem State.readV_noteCollision (idx : CellIdx) (k : RegIdx) :
    (s.noteCollision idx).readV k = if k = collisionReg ∧ s.cell idx = true then 1 else s.readV k := by
  unfold State.noteCollision
  cases h : s.cell idx <;> simp [State.readV_writeV]

theorem readV_invertCell (idx : CellIdx) (k : RegIdx) :
    (invertCell idx s).readV k = if k = collisionReg ∧ s.cell idx = true then 1 else s.readV k :=
  State.readV_noteCollision s idx k

/-! ### Cells after a write (R29) -/

theorem State.cell_setCell (idx j : CellIdx) (b : Bool) :
    (s.setCell idx b).cell j = if j = idx then b else s.cell j := by
  by_cases h : j = idx
  · subst h; simp [State.cell, State.setCell]
  · have h' : idx.val ≠ j.val := fun e => h (Fin.ext e.symm)
    simp [State.cell, State.setCell, h, h']

@[simp] theorem State.cell_clearDisplay (j : CellIdx) : s.clearDisplay.cell j = false := by
  simp [State.cell]

@[simp] theorem State.cell_writeV (x : RegIdx) (b : Byte) (j : CellIdx) :
    (s.writeV x b).cell j = s.cell j := rfl
@[simp] theorem State.cell_clearCollision (j : CellIdx) : s.clearCollision.cell j = s.cell j := rfl
@[simp] theorem State.cell_noteCollision (idx j : CellIdx) :
    (s.noteCollision idx).cell j = s.cell j := by
  simp [State.cell]

/-- Inversion toggles its one cell (R167). -/
theorem cell_invertCell (idx j : CellIdx) :
    (invertCell idx s).cell j = if j = idx then !s.cell j else s.cell j := by
  by_cases h : j = idx
  · subst h; simp [invertCell, State.cell_setCell]
  · simp [invertCell, State.cell_setCell, h]

/-! ### Two register files, two displays, compared by their entries -/

theorem State.v_ext {s t : State} (h : ∀ k, t.readV k = s.readV k) : t.v = s.v := by
  apply Vector.ext
  intro k hk
  exact h ⟨k, hk⟩

theorem State.disp_ext {s t : State} (h : ∀ j, t.cell j = s.cell j) : t.disp = s.disp := by
  apply Vector.ext
  intro k hk
  exact h ⟨k, hk⟩

end Sys2Proof.Machine
end

