-- ==== Sys2Proof/Laws/Cycle.lean ====
section
/-!
SUPPORT. What each meaning answers, and the one inversion of a STEP (spec 40_step_cycle.md R113): every
later fact about a STEP goes through `stepTransaction_cases`.
-/

namespace Sys2Proof.Machine

variable (s : State)

/-! ## The meanings, one equation each -/

@[simp] theorem exec_op00E0 : exec .op00E0 s = .next s.clearDisplay := rfl
@[simp] theorem exec_op1NNN (a : Addr12) : exec (.op1NNN a) s = .next (s.setPc (addrOperand a)) := rfl
@[simp] theorem exec_op6XNN (x : RegIdx) (b : Byte) : exec (.op6XNN x b) s = .next (s.writeV x b) := rfl
@[simp] theorem exec_op7XNN (x : RegIdx) (b : Byte) :
    exec (.op7XNN x b) s = .next (s.writeV x (addByte (s.readV x) b)) := rfl
@[simp] theorem exec_opANNN (a : Addr12) : exec (.opANNN a) s = .next (s.setI (addrOperand a)) := rfl
@[simp] theorem exec_opDXYN (x y : RegIdx) (n : Fin 16) :
    exec (.opDXYN x y n) s = .next (drawOrFault Config.drawCoordRead x y n s) := rfl
@[simp] theorem exec_nopZeroGroup (w : BitVec 12) : exec (.nopZeroGroup w) s = .next s := rfl
@[simp] theorem exec_nopClass2 (w : BitVec 12) : exec (.nopClass2 w) s = .next s := rfl
@[simp] theorem exec_nopClass3 (w : BitVec 12) : exec (.nopClass3 w) s = .next s := rfl
@[simp] theorem exec_nopClass4 (w : BitVec 12) : exec (.nopClass4 w) s = .next s := rfl
@[simp] theorem exec_nopClass5 (w : BitVec 12) : exec (.nopClass5 w) s = .next s := rfl
@[simp] theorem exec_nopClass8 (w : BitVec 12) : exec (.nopClass8 w) s = .next s := rfl
@[simp] theorem exec_nopClass9 (w : BitVec 12) : exec (.nopClass9 w) s = .next s := rfl
@[simp] theorem exec_nopClassB (w : BitVec 12) : exec (.nopClassB w) s = .next s := rfl
@[simp] theorem exec_nopClassC (w : BitVec 12) : exec (.nopClassC w) s = .next s := rfl
@[simp] theorem exec_nopClassE (w : BitVec 12) : exec (.nopClassE w) s = .next s := rfl
@[simp] theorem exec_nopClassF (w : BitVec 12) : exec (.nopClassF w) s = .next s := rfl

/-! ## Operands -/

@[simp] theorem addrOperand_toNat (a : Addr12) : (addrOperand a).toNat = a.toNat := by
  simp [addrOperand]; omega

theorem addByte_toNat (a b : Byte) : (addByte a b).toNat = (a.toNat + b.toNat) % 256 :=
  BitVec.toNat_add a b

theorem instrAddr_advancePc : s.advancePc.instrAddr = s.pc := by
  simp [State.instrAddr]

/-- One count down with floor zero, as a number (R110). -/
theorem countDown_toNat (t : Byte) : (countDown t).toNat = t.toNat - 1 := by
  unfold countDown
  split
  · rename_i h; subst h; rfl
  · bv_omega

/-! ## Fetch -/

theorem fetch_none (h : 4096 ≤ s.pc.toNat + 1) : s.fetch = none := if_pos h

theorem fetch_some (h : s.pc.toNat + 1 < 4096) :
    s.fetch = some (wordOfBytes (s.mem.read s.pc.toNat) (s.mem.read (s.pc.toNat + 1))) :=
  if_neg (Nat.not_le.mpr h)

/-! ## The STEP, by cases -/

theorem runWord_next {op : Word} {s t : State} (h : exec (decode op) s.advancePc = .next t) :
    runWord op s = if t.faulted then .next (t, .fault t.faultCause)
      else .next (t.tick, .ok (unimplEvent (decode op) op)) := by
  simp [runWord, h]

/-- Everything a STEP can be: refused, a fetch fault, or the run of the fetched word. -/
theorem stepTransaction_cases :
    (s.faulted = true ∧ stepTransaction s = .next (s, .refusedFaulted)) ∨
    (s.faulted = false ∧ 4096 ≤ s.pc.toNat + 1 ∧
      stepTransaction s = .next (s.raiseMemoryOutOfBounds .fetchOob s.pc, .fault .fetchOob)) ∨
    (s.faulted = false ∧ s.pc.toNat + 1 < 4096 ∧
      stepTransaction s =
        runWord (wordOfBytes (s.mem.read s.pc.toNat) (s.mem.read (s.pc.toNat + 1))) s) := by
  cases hf : s.faulted with
  | true => exact .inl ⟨rfl, by simp [stepTransaction, hf]⟩
  | false =>
    by_cases hb : s.pc.toNat + 1 < 4096
    · exact .inr (.inr ⟨rfl, hb, by simp [stepTransaction, hf, fetch_some s hb]⟩)
    · exact .inr (.inl ⟨rfl, by omega, by simp [stepTransaction, hf, fetch_none s (by omega)]⟩)

/-- `step` is the state a STEP leaves, unless the STEP was refused. -/
theorem step_of_transaction {s t : State} {r : StepResponse} (h : stepTransaction s = .next (t, r))
    (hr : r ≠ .refusedFaulted) : step s = .next t := by
  cases r with
  | ok ev => simp [step, cycle, h]
  | fault c => simp [step, cycle, h]
  | refusedFaulted => exact absurd rfl hr

end Sys2Proof.Machine
end

