-- ==== Sys2Proof/Laws/Decode.lean ====
section
/-!
SUPPORT. The fields of a word as numbers, the value of an encoded word, and what the decoder gives for each
class (spec 30_encoding.md R81, R84, R91).
-/

namespace Sys2Proof

variable (op : Word)

/-! ## Fields as numbers (R81) -/

theorem fieldClass_val : (fieldClass op).val = op.toNat / 4096 := by
  simp [fieldClass, Nat.shiftRight_eq_div_pow]; omega

theorem fieldX_val : (fieldX op).val = op.toNat / 256 % 16 := by
  simp [fieldX, Nat.shiftRight_eq_div_pow]

theorem fieldY_val : (fieldY op).val = op.toNat / 16 % 16 := by
  simp [fieldY, Nat.shiftRight_eq_div_pow]

theorem fieldN_val : (fieldN op).val = op.toNat % 16 := by
  simp [fieldN]

theorem fieldNN_toNat : (fieldNN op).toNat = op.toNat % 256 := by
  simp [fieldNN]

theorem fieldNNN_toNat : (fieldNNN op).toNat = op.toNat % 4096 := by
  simp [fieldNNN]

theorem hiByte_toNat : (hiByte op).toNat = op.toNat / 256 := by
  simp [hiByte, Nat.shiftRight_eq_div_pow]; omega

theorem loByte_toNat : (loByte op).toNat = op.toNat % 256 := by
  simp [loByte]

/-! ## Words as numbers (R65, R91) -/

/-- The value of two bit strings set side by side. -/
theorem append_toNat {v w : Nat} (a : BitVec v) (b : BitVec w) :
    (a ++ b).toNat = a.toNat * 2 ^ w + b.toNat := by
  rw [BitVec.toNat_append, ← Nat.shiftLeft_add_eq_or_of_lt b.isLt, Nat.shiftLeft_eq]

theorem wordOfBytes_toNat (hi lo : Byte) :
    (wordOfBytes hi lo).toNat = hi.toNat * 256 + lo.toNat := append_toNat hi lo

/-- The two bytes of a word make the word again (R65). -/
@[simp] theorem wordOfBytes_hi_lo : wordOfBytes (hiByte op) (loByte op) = op := by
  apply BitVec.eq_of_toNat_eq
  rw [wordOfBytes_toNat, hiByte_toNat, loByte_toNat]
  omega

theorem wordOfClass_toNat (c : BitVec 4) (low : BitVec 12) :
    (wordOfClass c low).toNat = c.toNat * 4096 + low.toNat := append_toNat c low

@[simp] theorem nibble_toNat (k : Fin 16) : (nibble k).toNat = k.val := rfl

theorem nibble_byte_toNat (x : Fin 16) (b : Byte) : (nibble x ++ b).toNat = x.val * 256 + b.toNat := by
  rw [append_toNat, nibble_toNat]
  omega

theorem nibbles_toNat (x y n : Fin 16) :
    (nibble x ++ nibble y ++ nibble n).toNat = x.val * 256 + y.val * 16 + n.val := by
  rw [append_toNat, append_toNat, nibble_toNat, nibble_toNat, nibble_toNat]
  omega

/-! ## The decoder, one equation a class (R84) -/

theorem fieldClass_eq {k : Fin 16} (h : op.toNat / 4096 = k.val) : fieldClass op = k :=
  Fin.ext ((fieldClass_val op).trans h)

theorem decode_class0 (h : op.toNat / 4096 = 0) : decode op = decodeClass0 op := by
  rw [decode, fieldClass_eq op (k := 0) h]

theorem decode_class1 (h : op.toNat / 4096 = 0x1) : decode op = .op1NNN (fieldNNN op) := by
  rw [decode, fieldClass_eq op (k := 0x1) h]

theorem decode_class2 (h : op.toNat / 4096 = 0x2) : decode op = .nopClass2 (fieldNNN op) := by
  rw [decode, fieldClass_eq op (k := 0x2) h]

theorem decode_class3 (h : op.toNat / 4096 = 0x3) : decode op = .nopClass3 (fieldNNN op) := by
  rw [decode, fieldClass_eq op (k := 0x3) h]

theorem decode_class4 (h : op.toNat / 4096 = 0x4) : decode op = .nopClass4 (fieldNNN op) := by
  rw [decode, fieldClass_eq op (k := 0x4) h]

theorem decode_class5 (h : op.toNat / 4096 = 0x5) : decode op = .nopClass5 (fieldNNN op) := by
  rw [decode, fieldClass_eq op (k := 0x5) h]

theorem decode_class6 (h : op.toNat / 4096 = 0x6) : decode op = .op6XNN (fieldX op) (fieldNN op) := by
  rw [decode, fieldClass_eq op (k := 0x6) h]

theorem decode_class7 (h : op.toNat / 4096 = 0x7) : decode op = .op7XNN (fieldX op) (fieldNN op) := by
  rw [decode, fieldClass_eq op (k := 0x7) h]

theorem decode_class8 (h : op.toNat / 4096 = 0x8) : decode op = .nopClass8 (fieldNNN op) := by
  rw [decode, fieldClass_eq op (k := 0x8) h]

theorem decode_class9 (h : op.toNat / 4096 = 0x9) : decode op = .nopClass9 (fieldNNN op) := by
  rw [decode, fieldClass_eq op (k := 0x9) h]

theorem decode_classA (h : op.toNat / 4096 = 0xA) : decode op = .opANNN (fieldNNN op) := by
  rw [decode, fieldClass_eq op (k := 0xA) h]

theorem decode_classB (h : op.toNat / 4096 = 0xB) : decode op = .nopClassB (fieldNNN op) := by
  rw [decode, fieldClass_eq op (k := 0xB) h]

theorem decode_classC (h : op.toNat / 4096 = 0xC) : decode op = .nopClassC (fieldNNN op) := by
  rw [decode, fieldClass_eq op (k := 0xC) h]

theorem decode_classD (h : op.toNat / 4096 = 0xD) : decode op = .opDXYN (fieldX op) (fieldY op) (fieldN op) := by
  rw [decode, fieldClass_eq op (k := 0xD) h]

theorem decode_classE (h : op.toNat / 4096 = 0xE) : decode op = .nopClassE (fieldNNN op) := by
  rw [decode, fieldClass_eq op (k := 0xE) h]

theorem decode_classF (h : op.toNat / 4096 = 0xF) : decode op = .nopClassF (fieldNNN op) := by
  rw [decode, fieldClass_eq op (k := 0xF) h]

/-- The class of a word is one of sixteen. -/
theorem class_lt : op.toNat / 4096 < 16 := by
  have := op.isLt
  omega

end Sys2Proof
end

