-- ==== Sys2Proof/Laws/Memory.lean ====
section
/-!
SUPPORT. The laws of memory (spec 20_memory.md R67, R68): what an unlisted address reads as, a read
after a write, and that every memory operation keeps the canonical form.
-/

namespace Sys2Proof.Machine

/-! ## The reset contents -/

theorem Memory.unlisted_font (a : Nat) (h : a < 80) : Memory.unlisted a = Config.font[a] := by
  simp [Memory.unlisted, fontByte, h]

theorem Memory.unlisted_above (a : Nat) (h : 80 ≤ a) : Memory.unlisted a = 0 := by
  simp [Memory.unlisted, fontByte, Nat.not_lt.mpr h]

@[simp] theorem Memory.read_nil (a : Nat) : Memory.read [] a = Memory.unlisted a := rfl

theorem Memory.read_cons_pair (a' a : Nat) (b : Byte) (m : Memory) :
    Memory.read ((a', b) :: m) a = if a = a' then b else Memory.read m a := rfl

/-! ## The canonical form -/

theorem Memory.wfFrom_nil (lo : Nat) : Memory.wfFrom lo [] = true := rfl

theorem Memory.wfFrom_cons (lo a : Nat) (b : Byte) (m : Memory) :
    Memory.wfFrom lo ((a, b) :: m) = true ↔
      lo ≤ a ∧ a < 4096 ∧ b ≠ Memory.unlisted a ∧ Memory.wfFrom (a + 1) m = true := by
  simp only [Memory.wfFrom, Bool.and_eq_true, decide_eq_true_eq, bne_iff_ne, and_assoc]
  exact Iff.rfl

theorem Memory.wfFrom_mono {lo lo' : Nat} {m : Memory} (hm : Memory.wfFrom lo m = true)
    (h : lo' ≤ lo) : Memory.wfFrom lo' m = true := by
  cases m with
  | nil => rfl
  | cons c m =>
    obtain ⟨a, b⟩ := c
    rw [Memory.wfFrom_cons] at hm ⊢
    exact ⟨by omega, hm.2⟩

/-- An address below the first entry reads as unlisted. -/
theorem Memory.read_below {lo : Nat} {m : Memory} (hm : Memory.wfFrom lo m = true) {a : Nat}
    (h : a < lo) : Memory.read m a = Memory.unlisted a := by
  induction m generalizing lo with
  | nil => rfl
  | cons c m ih =>
    obtain ⟨a', b⟩ := c
    rw [Memory.wfFrom_cons] at hm
    rw [Memory.read_cons_pair, if_neg (by omega)]
    exact ih hm.2.2.2 (by omega)

theorem Memory.wfFrom_consEntry {a : Nat} {m : Memory} (hm : Memory.wfFrom (a + 1) m = true)
    (ha : a < 4096) (b : Byte) : Memory.wfFrom a (Memory.cons a b m) = true := by
  unfold Memory.cons
  split
  · exact Memory.wfFrom_mono hm (by omega)
  · rename_i hb
    exact (Memory.wfFrom_cons ..).mpr ⟨le_refl a, ha, hb, hm⟩

theorem Memory.read_consEntry {a : Nat} {m : Memory} (hm : Memory.wfFrom (a + 1) m = true)
    (b : Byte) (a' : Nat) :
    Memory.read (Memory.cons a b m) a' = if a' = a then b else Memory.read m a' := by
  unfold Memory.cons
  split
  · rename_i hb
    split
    · rename_i h; subst h
      rw [Memory.read_below hm (by omega), hb]
    · rfl
  · rfl

/-- `Memory.set` keeps the form, from any bound at or below the address. -/
theorem Memory.wfFrom_set {lo a : Nat} {m : Memory} (hm : Memory.wfFrom lo m = true) (h : lo ≤ a)
    (ha : a < 4096) (b : Byte) : Memory.wfFrom lo (Memory.set m a b) = true := by
  induction m generalizing lo with
  | nil => exact Memory.wfFrom_mono (Memory.wfFrom_consEntry rfl ha b) h
  | cons c m ih =>
    obtain ⟨a', b'⟩ := c
    have hm' := (Memory.wfFrom_cons ..).mp hm
    unfold Memory.set
    split
    · rename_i hlt
      have : Memory.wfFrom (a + 1) ((a', b') :: m) = true :=
        (Memory.wfFrom_cons ..).mpr ⟨by omega, hm'.2⟩
      exact Memory.wfFrom_mono (Memory.wfFrom_consEntry this ha b) h
    · split
      · rename_i heq; subst heq
        exact Memory.wfFrom_mono (Memory.wfFrom_consEntry hm'.2.2.2 ha b) h
      · exact (Memory.wfFrom_cons ..).mpr ⟨hm'.1, hm'.2.1, hm'.2.2.1, ih hm'.2.2.2 (by omega)⟩

/-- A read after `Memory.set`: the byte set, and every other byte as before. -/
theorem Memory.read_set {lo a : Nat} {m : Memory} (hm : Memory.wfFrom lo m = true) (b : Byte)
    (a' : Nat) : Memory.read (Memory.set m a b) a' = if a' = a then b else Memory.read m a' := by
  induction m generalizing lo with
  | nil => exact Memory.read_consEntry rfl b a'
  | cons c m ih =>
    obtain ⟨a₀, b₀⟩ := c
    have hm' := (Memory.wfFrom_cons ..).mp hm
    unfold Memory.set
    split
    · rename_i hlt
      exact Memory.read_consEntry ((Memory.wfFrom_cons ..).mpr ⟨by omega, hm'.2⟩) b a'
    · split
      · rename_i heq; subst heq
        rw [Memory.read_consEntry hm'.2.2.2, Memory.read_cons_pair]
        split <;> rfl
      · rw [Memory.read_cons_pair, ih hm'.2.2.2, Memory.read_cons_pair]
        split <;> split <;> first | rfl | omega

/-! ## MemWrite -/

theorem Memory.wf_write {m : Memory} (hm : m.wf = true) (a : Nat) (b : Byte) :
    (m.write a b).wf = true := by
  unfold Memory.write
  split
  · exact Memory.wfFrom_set hm (Nat.zero_le a) ‹_› b
  · exact hm

/-- A read after a write to the same place gives the value written; every other byte is as before. -/
theorem Memory.read_write {m : Memory} (hm : m.wf = true) {a : Nat} (ha : a < 4096) (b : Byte)
    (a' : Nat) : (m.write a b).read a' = if a' = a then b else m.read a' := by
  unfold Memory.write
  rw [if_pos (by simpa using ha)]
  exact Memory.read_set hm b a'

theorem Memory.wf_writeBytes (bs : List Byte) {m : Memory} (hm : m.wf = true) (a : Nat) :
    (m.writeBytes a bs).wf = true := by
  induction bs generalizing m a with
  | nil => exact hm
  | cons b bs ih => exact ih (Memory.wf_write hm a b) (a + 1)

/-- A copy changes no byte outside its range. -/
theorem Memory.read_writeBytes_outside (bs : List Byte) {m : Memory} (hm : m.wf = true) {a : Nat}
    (ha : a + bs.length ≤ 4096) {a' : Nat} (h : a' < a ∨ a + bs.length ≤ a') :
    (m.writeBytes a bs).read a' = m.read a' := by
  induction bs generalizing m a with
  | nil => rfl
  | cons b bs ih =>
    simp only [List.length_cons] at ha h
    rw [Memory.writeBytes, ih (Memory.wf_write hm a b) (by omega) (by omega),
      Memory.read_write hm (by omega), if_neg (by omega)]

/-- A copy puts byte k at a + k. -/
theorem Memory.read_writeBytes_inside (bs : List Byte) {m : Memory} (hm : m.wf = true) {a : Nat}
    (ha : a + bs.length ≤ 4096) (k : Nat) (hk : k < bs.length) :
    (m.writeBytes a bs).read (a + k) = bs[k] := by
  induction bs generalizing m a k with
  | nil => exact absurd hk (Nat.not_lt_zero k)
  | cons b bs ih =>
    simp only [List.length_cons] at ha hk
    cases k with
    | zero =>
      rw [Memory.writeBytes,
        Memory.read_writeBytes_outside bs (Memory.wf_write hm a b) (by omega) (by omega),
        Memory.read_write hm (by omega)]
      simp
    | succ k =>
      have := ih (Memory.wf_write hm a b) (a := a + 1) (by omega) k (by omega)
      rw [Memory.writeBytes, show a + (k + 1) = a + 1 + k by omega, this]
      simp

/-! ## Every memory operation keeps the form -/

theorem State.reset_mem_wf : State.reset.mem.wf = true := rfl

theorem State.placeWord_mem_wf (s : State) (op : Word) (h : s.mem.wf = true) :
    (s.placeWord op).mem.wf = true :=
  Memory.wf_write (Memory.wf_write h _ _) _ _

theorem loadRom_mem_wf (bytes : List Byte) (s : State) (h : s.mem.wf = true) :
    (loadRom bytes s).1.mem.wf = true := by
  unfold loadRom
  split
  · exact h
  · exact Memory.wf_writeBytes bytes State.reset_mem_wf _

end Sys2Proof.Machine
end

