-- ==== Sys2Proof/Laws/PerInstr.lean ====
section
/-!
SUPPORT. Statements made of every instruction as syntax, one lemma per constructor. TableRowCovers: the
word of an instruction has the mask and match bits of the instruction's row of spec/opcode_table.json.
-/

namespace Sys2Proof.Laws.TableRowCovers

/-- The row's mask and match hold of the instruction's own word (spec 30_encoding.md R84, R85). -/
def Statement (i : Instr) : Prop := i.tableRow.covers (encode i) = true

/-- The class bits of a word made of a class and 12 more bits. -/
theorem class_bits (c : BitVec 4) (low : BitVec 12) : wordOfClass c low &&& 0xF000 = c ++ 0#12 := by
  apply BitVec.eq_of_getLsbD_eq
  intro k hk
  simp only [wordOfClass, BitVec.getLsbD_and, BitVec.getLsbD_append]
  interval_cases k <;> simp

theorem op00E0 : Statement .op00E0 := rfl

theorem op1NNN (nnn : Addr12) : Statement (.op1NNN nnn) :=
  beq_iff_eq.mpr (class_bits 0x1 _)

theorem op6XNN (x : RegIdx) (nn : Byte) : Statement (.op6XNN x nn) :=
  beq_iff_eq.mpr (class_bits 0x6 _)

theorem op7XNN (x : RegIdx) (nn : Byte) : Statement (.op7XNN x nn) :=
  beq_iff_eq.mpr (class_bits 0x7 _)

theorem opANNN (nnn : Addr12) : Statement (.opANNN nnn) :=
  beq_iff_eq.mpr (class_bits 0xA _)

theorem opDXYN (x y : RegIdx) (n : Fin 16) : Statement (.opDXYN x y n) :=
  beq_iff_eq.mpr (class_bits 0xD _)

theorem nopZeroGroup (w : BitVec 12) : Statement (.nopZeroGroup w) :=
  beq_iff_eq.mpr (class_bits 0x0 _)

theorem nopClass2 (w : BitVec 12) : Statement (.nopClass2 w) :=
  beq_iff_eq.mpr (class_bits 0x2 _)

theorem nopClass3 (w : BitVec 12) : Statement (.nopClass3 w) :=
  beq_iff_eq.mpr (class_bits 0x3 _)

theorem nopClass4 (w : BitVec 12) : Statement (.nopClass4 w) :=
  beq_iff_eq.mpr (class_bits 0x4 _)

theorem nopClass5 (w : BitVec 12) : Statement (.nopClass5 w) :=
  beq_iff_eq.mpr (class_bits 0x5 _)

theorem nopClass8 (w : BitVec 12) : Statement (.nopClass8 w) :=
  beq_iff_eq.mpr (class_bits 0x8 _)

theorem nopClass9 (w : BitVec 12) : Statement (.nopClass9 w) :=
  beq_iff_eq.mpr (class_bits 0x9 _)

theorem nopClassB (w : BitVec 12) : Statement (.nopClassB w) :=
  beq_iff_eq.mpr (class_bits 0xB _)

theorem nopClassC (w : BitVec 12) : Statement (.nopClassC w) :=
  beq_iff_eq.mpr (class_bits 0xC _)

theorem nopClassE (w : BitVec 12) : Statement (.nopClassE w) :=
  beq_iff_eq.mpr (class_bits 0xE _)

theorem nopClassF (w : BitVec 12) : Statement (.nopClassF w) :=
  beq_iff_eq.mpr (class_bits 0xF _)

end Sys2Proof.Laws.TableRowCovers
end

