-- ==== Sys2Proof/Laws/Sprite.lean ====
section
/-!
SUPPORT. What a draw can do (spec 44_sprite_draw.md R170): it touches V[0xF] and the display and nothing
else, and its parts by cases on the sprite bit and the bound check.
-/

namespace Sys2Proof.Machine

/-- `t` differs from `s` at most in V[0xF] and the display. -/
structure DrawFrame (s t : State) : Prop where
  rest : t = { s with v := t.v, disp := t.disp }
  regs : ∀ k, k ≠ collisionReg → t.readV k = s.readV k

theorem DrawFrame.refl (s : State) : DrawFrame s s := ⟨rfl, fun _ _ => rfl⟩

theorem DrawFrame.trans {s t u : State} (h : DrawFrame s t) (h' : DrawFrame t u) : DrawFrame s u where
  rest := by rw [h'.rest, h.rest]
  regs k hk := (h'.regs k hk).trans (h.regs k hk)

theorem DrawFrame.mem {s t : State} (h : DrawFrame s t) : t.mem = s.mem := by rw [h.rest]
theorem DrawFrame.i {s t : State} (h : DrawFrame s t) : t.i = s.i := by rw [h.rest]

/-- A fold of steps that each keep the frame keeps the frame. -/
theorem DrawFrame.foldl {α : Type} {f : State → α → State} (hf : ∀ s a, DrawFrame s (f s a))
    (l : List α) (s : State) : DrawFrame s (l.foldl f s) := by
  induction l generalizing s with
  | nil => exact DrawFrame.refl s
  | cons a l ih => exact (hf s a).trans (ih (f s a))

theorem clearCollision_frame (s : State) : DrawFrame s s.clearCollision :=
  ⟨rfl, fun k hk => by simp [State.readV_clearCollision, hk]⟩

theorem invertCell_frame (idx : CellIdx) (s : State) : DrawFrame s (invertCell idx s) where
  rest := by
    unfold invertCell State.noteCollision
    split <;> rfl
  regs k hk := by simp [readV_invertCell, hk]

theorem drawPixel_set {row : Byte} {c : Nat} (h : spriteBit row c = true) (mode : Config.DrawCoordRead)
    (vx vy : Byte) (x y : RegIdx) (r : Nat) (s : State) :
    drawPixel mode vx vy x y row r s c =
      invertCell (pixelIndex (coordinate mode vx x s) (coordinate mode vy y s) r c) s := by
  simp [drawPixel, h]

theorem drawPixel_clear {row : Byte} {c : Nat} (h : spriteBit row c = false)
    (mode : Config.DrawCoordRead) (vx vy : Byte) (x y : RegIdx) (r : Nat) (s : State) :
    drawPixel mode vx vy x y row r s c = s := by
  simp [drawPixel, h]

theorem drawPixel_frame (mode : Config.DrawCoordRead) (vx vy : Byte) (x y : RegIdx) (row : Byte)
    (r : Nat) (s : State) (c : Nat) : DrawFrame s (drawPixel mode vx vy x y row r s c) := by
  unfold drawPixel
  split
  · exact invertCell_frame _ s
  · exact DrawFrame.refl s

theorem drawRow_frame (mode : Config.DrawCoordRead) (vx vy : Byte) (x y : RegIdx) (s : State)
    (r : Nat) : DrawFrame s (drawRow mode vx vy x y s r) :=
  DrawFrame.foldl (drawPixel_frame mode vx vy x y _ r) (List.range 8) s

theorem drawRows_frame (mode : Config.DrawCoordRead) (x y : RegIdx) (n : Nat) (s : State) :
    DrawFrame s (drawRows mode x y n s) :=
  (clearCollision_frame s).trans (DrawFrame.foldl (drawRow_frame mode _ _ x y) (List.range n) _)

/-- Rows 0 to n are rows 0 to n - 1 and then row n. -/
theorem drawRows_succ (mode : Config.DrawCoordRead) (x y : RegIdx) (n : Nat) (s : State) :
    drawRows mode x y (n + 1) s =
      drawRow mode (s.readV x) (s.readV y) x y (drawRows mode x y n s) n := by
  simp [drawRows, List.range_succ]

/-- The whole draw is its rows: nothing they leave is dropped. -/
theorem drawSprite_eq_drawRows (mode : Config.DrawCoordRead) (x y : RegIdx) (n : Nat) (s : State) :
    drawSprite mode x y n s = drawRows mode x y n s :=
  (drawRows_frame mode x y n s).rest.symm

theorem drawSprite_frame (mode : Config.DrawCoordRead) (x y : RegIdx) (n : Nat) (s : State) :
    DrawFrame s (drawSprite mode x y n s) :=
  (drawSprite_eq_drawRows mode x y n s) ▸ drawRows_frame mode x y n s

theorem drawOrFault_inBounds {n : Nat} {s : State} (h : ¬spriteOutOfBounds n s)
    (mode : Config.DrawCoordRead) (x y : RegIdx) :
    drawOrFault mode x y n s = drawSprite mode x y n s := if_neg h

theorem drawOrFault_outOfBounds {n : Nat} {s : State} (h : spriteOutOfBounds n s)
    (mode : Config.DrawCoordRead) (x y : RegIdx) :
    drawOrFault mode x y n s = s.raiseMemoryOutOfBounds .spriteOob s.instrAddr := if_pos h

end Sys2Proof.Machine
end

