-- ==== Sys2Proof/Tests/Slice0.lean ====
section
/-!
SUPPORT. The model's own tests. Expected values are those of spec/95_test_vectors.md (its vector names stand
in the comments) and words written out from spec/30_encoding.md; then, for every statement with hypotheses,
a state and operands that meet them.
-/

namespace Sys2Proof.Tests

open Sys2Proof Sys2Proof.Machine

/-! ## Helpers -/

/-- The reset state with PC and I set and a word placed at PC. -/
def placed (pc i : Word) (w : Nat) : State :=
  State.withFetchWord { State.reset with pc := pc, i := i } 16 w

/-- The reset state with a word at 0x200. -/
def at200 (w : Nat) : State := placed 0x200 0 w

/-- The state a step leaves, or the state itself where it leaves none. -/
def after (s : State) : State :=
  match step s with
  | .next t => t
  | .fault _ => s
  | .refused _ => s

/-- A step answers a next state. -/
def completes (s : State) : Bool :=
  match step s with
  | .next _ => true
  | .fault _ => false
  | .refused _ => false

/-! ## WellFormed: its one check -/

theorem test_illFormed_zeroGroup_is_clear_screen : (Instr.nopZeroGroup 0x0E0).wellFormed = false := by
  decide
theorem test_wellFormed_zeroGroup_neighbours :
    (Instr.nopZeroGroup 0x0E1).wellFormed = true ∧ (Instr.nopZeroGroup 0x0DF).wellFormed = true := by
  decide

/-! ## Decode: a word of every row, bit by bit -/

theorem test_decode_00E0 : decode 0b0000_0000_1110_0000 = .op00E0 := by decide
theorem test_decode_1NNN : decode 0b0001_0010_0000_1000 = .op1NNN 0x208 := by decide
theorem test_decode_6XNN : decode 0b0110_1010_0100_0010 = .op6XNN 0xA 0x42 := by decide
theorem test_decode_7XNN : decode 0b0111_0011_0000_0101 = .op7XNN 0x3 0x05 := by decide
theorem test_decode_ANNN : decode 0b1010_0010_0001_1110 = .opANNN 0x21E := by decide
theorem test_decode_DXYN : decode 0b1101_0001_0010_1111 = .opDXYN 0x1 0x2 0xF := by decide
theorem test_decode_ZERO_GROUP : decode 0b0000_0000_1110_1110 = .nopZeroGroup 0x0EE := by decide
theorem test_decode_CLASS_2 : decode 0b0010_0001_0010_0011 = .nopClass2 0x123 := by decide
theorem test_decode_CLASS_3 : decode 0b0011_0001_0010_0011 = .nopClass3 0x123 := by decide
theorem test_decode_CLASS_4 : decode 0b0100_0001_0010_0011 = .nopClass4 0x123 := by decide
theorem test_decode_CLASS_5 : decode 0b0101_0001_0010_0011 = .nopClass5 0x123 := by decide
theorem test_decode_CLASS_8 : decode 0b1000_0000_0001_0100 = .nopClass8 0x014 := by decide
theorem test_decode_CLASS_9 : decode 0b1001_0001_0010_0011 = .nopClass9 0x123 := by decide
theorem test_decode_CLASS_B : decode 0b1011_0001_0010_0011 = .nopClassB 0x123 := by decide
theorem test_decode_CLASS_C : decode 0b1100_0001_0010_0011 = .nopClassC 0x123 := by decide
theorem test_decode_CLASS_E : decode 0b1110_0001_0010_0011 = .nopClassE 0x123 := by decide
theorem test_decode_CLASS_F : decode 0b1111_0000_0001_0101 = .nopClassF 0x015 := by decide

/-- The bytes of 0x6A42, the high byte first, and one byte left over (R65). -/
theorem test_decodeBytes_big_endian :
    decodeBytes [0x6A, 0x42, 0x07] = .ok (.op6XNN 0xA 0x42, [0x07]) := by rfl
theorem test_decodeBytes_truncated : decodeBytes [0x6A] = .error .truncated := by rfl
theorem test_decodeTableWord : decodeTableWord 16 0xD12F = some (.opDXYN 0x1 0x2 0xF) := by decide
theorem test_encode_DXYN : encode (.opDXYN 0x1 0x2 0xF) = 0xD12F := by decide

/-! ## Instructions: single steps (spec/95_test_vectors.md) -/

/-- Vector CLS-1: cells 5 and 2047 lit, V[0xF] = 1. -/
theorem test_00E0_clears :
    let s := ((at200 0x00E0).setCell 5 true).setCell 2047 true |>.writeV 0xF 1
    (after s).cell 5 = false ∧ (after s).cell 2047 = false ∧ (after s).readV 0xF = 1 ∧
      (after s).pc = 0x202 := by decide +kernel
/-- Vector JP-1. -/
theorem test_1NNN_absolute : (after (placed 0x204 0 0x1208)).pc = 0x208 := by decide +kernel
/-- Vector JP-4: an odd target. -/
theorem test_1NNN_odd : (after (at200 0x1203)).pc = 0x203 := by decide +kernel
/-- Vector LD-1. -/
theorem test_6XNN_loads :
    (after (at200 0x6A42)).readV 0xA = 0x42 ∧ (after (at200 0x6A42)).readV 0xB = 0 := by decide +kernel
/-- Vector STEP-11: an odd PC. -/
theorem test_6XNN_odd_pc :
    (after (placed 0x201 0 0x6A07)).readV 0xA = 0x07 ∧ (after (placed 0x201 0 0x6A07)).pc = 0x203 := by
  decide +kernel
/-- Vector ADD-2. -/
theorem test_7XNN_wraps : (after ((at200 0x7302).writeV 3 0xFF)).readV 3 = 0x01 := by decide +kernel
/-- Vector ADD-3: no carry into V[0xF]. -/
theorem test_7XNN_no_carry :
    (after ((at200 0x7301).writeV 3 0xFF)).readV 0xF = 0x00 := by decide +kernel
/-- Vector LDI-2. -/
theorem test_ANNN_top : (after (at200 0xAFFF)).i = 0xFFF := by decide +kernel
/-- Vector DRW-15, LIVE: the second pixel moves to column 2 after the collision. -/
theorem test_DXYN_live_flag_moves_draw :
    let s := State.setCell { at200 0xDF11 with mem := [(0x300, 0xC0)], i := 0x300 } 0 true
    let t := drawSprite .live 0xF 0x1 1 s
    t.cell 0 = false ∧ t.cell 1 = false ∧ t.cell 2 = true ∧ t.readV 0xF = 1 := by decide +kernel
/-- Vector DRW-7: rows at 0xFFE, 0xFFF and 0x1000. -/
theorem test_DXYN_past_memory :
    let t := after ((placed 0x200 0xFFE 0xD003).writeV 0xF 7)
    t.faulted = true ∧ t.faultCause.code = 2 ∧ t.faultPc = 0x200 ∧ t.pc = 0x200 ∧ t.readV 0xF = 7 := by
  decide +kernel
/-- Vector DRW-4: the pixel of column 1 wraps to x = 0. -/
theorem test_pixelIndex_wraps : pixelIndex 63 31 0 0 = 2047 ∧ pixelIndex 63 31 0 1 = 1984 := by decide
/-- Vector STEP-3: 0x00EE is no return. -/
theorem test_NOP_ZERO_GROUP_event :
    ∃ t, stepTransaction (at200 0x00EE) = .next (t, .ok (some (.zeroGroup, 0x00EE))) ∧
      t.pc = 0x202 := ⟨_, rfl, rfl⟩
/-- Vector STEP-5. -/
theorem test_NOP_CLASS_8_event :
    ∃ t, stepTransaction (at200 0x8014) = .next (t, .ok (some (.noCase, 0x8014))) ∧ t.pc = 0x202 :=
  ⟨_, rfl, rfl⟩

/-! ## The STEP and the transactions -/

/-- Vector TICK-3: 0xFF counts to 0xFE, 0x10 to 0x0F. -/
theorem test_tick :
    (after { at200 0x1200 with dt := 0xFF, st := 0x10 }).dt = 0xFE ∧
      (after { at200 0x1200 with dt := 0xFF, st := 0x10 }).st = 0x0F := by decide +kernel
/-- Vector STEP-7: the last word of memory runs and leaves PC = 0x1000. -/
theorem test_fetch_last_word : (after { State.reset with pc := 0xFFE }).pc = 0x1000 := by decide +kernel
/-- Vectors STEP-8 and TICK-5: a fetch fault, without a tick. -/
theorem test_fetch_fault :
    let t := after { State.reset with pc := 0xFFF, dt := 5 }
    t.faulted = true ∧ t.faultCause.code = 1 ∧ t.faultPc = 0xFFF ∧ t.pc = 0xFFF ∧ t.dt = 5 := by
  decide +kernel
/-- Vector JP-3: with the reference font the word at 0x000 is 0xF090. -/
theorem test_fetch_reference_font (h : Config.font = Config.referenceFont) :
    State.fetch { State.reset with pc := 0x000 } = some 0xF090 := by
  simp [State.fetch, State.reset, Memory.unlisted, fontByte, h, Config.referenceFont, wordOfBytes]
/-- Vector RST-4: LOAD_ROM [0x12, 0x00] on a faulted block. -/
theorem test_loadRom :
    let t := (loadRom [0x12, 0x00] { at200 0 with faulted := true, pc := 0x1000 }).1
    t.faulted = false ∧ t.mem = [(0x200, 0x12)] ∧ t.pc = 0x200 := by decide +kernel
/-- Vector RST-2: 3585 bytes. -/
theorem test_loadRom_too_large (s : State) :
    loadRom (List.replicate 3585 0xAB) s = (s, .romTooLarge) :=
  if_pos (by rw [List.length_replicate]; decide)
/-- Vector RST-6: KEY_WRITE 0x8001. -/
theorem test_keyWrite :
    (keyWrite 0x8001 State.reset).keys[0] = true ∧ (keyWrite 0x8001 State.reset).keys[15] = true ∧
      (keyWrite 0x8001 State.reset).keys[1] = false := by decide

/-! ## The host's question: the first step after reset runs the placed word -/

theorem test_withFetchWord_runs_every_class :
    completes (at200 0x00E0) ∧ completes (at200 0x1200) ∧ completes (at200 0x6000) ∧
    completes (at200 0x7000) ∧ completes (at200 0xA000) ∧ completes (at200 0xD00F) ∧
    completes (at200 0x0000) ∧ completes (at200 0xF000) := by decide +kernel

/-! ## Witnesses: every statement's hypotheses are met -/

theorem witness_DecodeOfEncodeIsIdentity :
    (Instr.opDXYN 0xF 0xF 0xF).wellFormed = true ∧ (Instr.nopZeroGroup 0xFFF).wellFormed = true := by
  decide

theorem witness_EveryWordIsOneInstruction :
    (Instr.op7XNN 0xF 0xFF).wellFormed = true ∧ encode (.op7XNN 0xF 0xFF) = 0x7FFF := by decide

theorem witness_OpcodeMap : (0x0DF#12).toNat ≠ 0x0E0 ∧ (0x0E1#12).toNat ≠ 0x0E0 := by decide

theorem witness_FetchIsBigEndian : (placed 0xFFE 0 0x1200).pc.toNat + 1 < 4096 := by decide

theorem fetches_at200_6A42 : (at200 0x6A42).Fetches 0x6A42 := ⟨rfl, by decide, by decide⟩
theorem fetches_at200_1FFF : (at200 0x1FFF).Fetches 0x1FFF := ⟨rfl, by decide, by decide⟩

theorem witness_StepRunsDecodedInstruction :
    let s := at200 0x6A42
    s.Running ∧ s.pc.toNat + 1 < 4096 ∧
      decodeBytes [s.mem.read s.pc.toNat, s.mem.read (s.pc.toNat + 1)] = .ok (.op6XNN 0xA 0x42, []) :=
  ⟨rfl, by decide, rfl⟩

theorem witness_EveryStepCompletes : State.reset.Running := rfl

theorem witness_TimersTickOncePerStep :
    (∃ t ev, stepTransaction { at200 0xF015 with dt := 1 } = .next (t, .ok ev)) ∧
    (∃ t c, stepTransaction { State.reset with pc := 0xFFF, dt := 5 } = .next (t, .fault c)) ∧
    (∃ t, stepTransaction { State.reset with faulted := true, dt := 5 } = .next (t, .refusedFaulted)) :=
  ⟨⟨_, _, rfl⟩, ⟨_, _, rfl⟩, ⟨_, rfl⟩⟩

theorem witness_ProgramCounterAfterStep :
    ((∃ t ev, stepTransaction (at200 0x1FFF) = .next (t, .ok ev)) ∧ (at200 0x1FFF).Fetches 0x1FFF ∧
      0x1FFF / 4096 = 1) ∧
    ((∃ t ev, stepTransaction (at200 0x6A42) = .next (t, .ok ev)) ∧ (at200 0x6A42).Fetches 0x6A42 ∧
      0x6A42 / 4096 ≠ 1) ∧
    (∃ t c, stepTransaction { State.reset with pc := 0x1000 } = .next (t, .fault c)) :=
  ⟨⟨⟨_, _, rfl⟩, fetches_at200_1FFF, by decide⟩, ⟨⟨_, _, rfl⟩, fetches_at200_6A42, by decide⟩,
    ⟨_, _, rfl⟩⟩

theorem witness_ClearScreenStep : (at200 0x00E0).Fetches 0x00E0 := ⟨rfl, by decide, by decide⟩

theorem witness_JumpStep :
    (at200 0x1000).Fetches (0x1000 + (0x000#12).toNat) ∧ (at200 0x1FFF).Fetches (0x1000 + (0xFFF#12).toNat) :=
  ⟨⟨rfl, by decide, by decide⟩, fetches_at200_1FFF⟩

theorem witness_LoadImmediateStep :
    (placed 0xFFE 0 0x6FFF).Fetches (0x6000 + (0xF : Fin 16).val * 256 + (0xFF#8).toNat) :=
  ⟨rfl, by decide, by decide⟩

theorem witness_AddImmediateStep :
    (placed 0x201 0 0x7FFF).Fetches (0x7000 + (0xF : Fin 16).val * 256 + (0xFF#8).toNat) :=
  ⟨rfl, by decide, by decide⟩

theorem witness_LoadIndexStep : (at200 0xAFFF).Fetches (0xA000 + (0xFFF#12).toNat) :=
  ⟨rfl, by decide, by decide⟩

theorem witness_NoOpStep :
    ((at200 0x0FFF).Fetches 0x0FFF ∧ 0x0FFF ≠ 0x00E0 ∧ 0x0FFF / 4096 = 0) ∧
    ((at200 0xFFFF).Fetches 0xFFFF ∧ 0xFFFF ≠ 0x00E0 ∧
      0xFFFF / 4096 ∈ [2, 3, 4, 5, 8, 9, 11, 12, 14, 15]) :=
  ⟨⟨⟨rfl, by decide, by decide⟩, by decide, by decide⟩,
    ⟨⟨rfl, by decide, by decide⟩, by decide, by decide⟩⟩

theorem witness_InstructionStepsReportNoEvent :
    (at200 0x00E0).Fetches 0x00E0 ∧
    ((at200 0x1FFF).Fetches 0x1FFF ∧ 0x1FFF / 4096 ∈ [1, 6, 7, 10]) ∧
    ((at200 0x6A42).Fetches 0x6A42 ∧ 0x6A42 / 4096 ∈ [1, 6, 7, 10]) ∧
    ((at200 0x7000).Fetches 0x7000 ∧ 0x7000 / 4096 ∈ [1, 6, 7, 10]) ∧
    ((at200 0xAFFF).Fetches 0xAFFF ∧ 0xAFFF / 4096 ∈ [1, 6, 7, 10]) :=
  ⟨witness_ClearScreenStep, ⟨fetches_at200_1FFF, by decide⟩, ⟨fetches_at200_6A42, by decide⟩,
    ⟨⟨rfl, by decide, by decide⟩, by decide⟩, ⟨witness_LoadIndexStep, by decide⟩⟩

/-- The neighbours of 0x00E0, the ends of class 0, and an end of a class of each kind. -/
theorem witness_EventClassOfEveryWord :
    (0x00E0 : Word).toNat = 0x00E0 ∧ (0xDFFF : Word).toNat / 4096 ∈ [1, 6, 7, 10, 13] ∧
    ((0x00E1 : Word).toNat ≠ 0x00E0 ∧ (0x00E1 : Word).toNat / 4096 = 0) ∧
    ((0x0FFF : Word).toNat ≠ 0x00E0 ∧ (0x0FFF : Word).toNat / 4096 = 0) ∧
    (0xE000 : Word).toNat / 4096 ∈ [2, 3, 4, 5, 8, 9, 11, 12, 14, 15] := by decide

theorem witness_DrawSpriteStep :
    (placed 0x200 0xFF1 0xDFFF).Fetches
      (0xD000 + (0xF : Fin 16).val * 256 + (0xF : Fin 16).val * 16 + (0xF : Fin 16).val) ∧
    (placed 0x200 0xFF1 0xDFFF).i.toNat + (0xF : Fin 16).val ≤ 4096 :=
  ⟨⟨rfl, by decide, by decide⟩, by decide⟩

theorem witness_DrawSpriteCompletes :
    (placed 0x200 0xFF1 0).i.toNat + (0xF : Fin 16).val ≤ 4096 ∧ (0 : Fin 16).val = 0 := by decide

/-- The sprite bits of the SpriteBitInvertsOneCell witness: column 0 of 0x80 is set, column 7 clear; cell 0
is lit, cell 1 is not. -/
theorem witness_SpriteBitInvertsOneCell :
    (0x80#8).toNat / 2 ^ (7 - 0) % 2 = 1 ∧ (0x80#8).toNat / 2 ^ (7 - 7) % 2 = 0 ∧
    (State.reset.setCell 0 true).lit (cellAt 0 0 0 0) ∧ ¬ State.reset.lit (cellAt 0 0 0 0) := by
  refine ⟨by decide, by decide, ⟨0, by decide, by simp [State.cell_setCell]⟩, ?_⟩
  rintro ⟨j, -, h⟩
  simp [State.cell, State.reset] at h

/-- A one-row sprite of one set bit over a lit cell, and over a blank display. -/
theorem witness_DrawInvertsExactlyTheSprite :
    let s : State := { State.reset with mem := [(0x300, 0x80)], i := 0x300 }
    (Config.DrawCoordRead.latched = .latched ∧ (0x3 : Fin 16) ≠ 0xF ∧ (0x4 : Fin 16) ≠ 0xF) ∧
    (∃ r c, (s.setCell 0 true).SpritePixel 1 r c ∧
      (s.setCell 0 true).lit (cellAt (s.readV 3) (s.readV 4) r c)) ∧
    ¬ ∃ r c, s.SpritePixel 1 r c ∧ s.lit (cellAt (s.readV 3) (s.readV 4) r c) := by
  refine ⟨⟨rfl, by decide, by decide⟩,
    ⟨0, 0, ⟨by decide, by decide, by decide⟩, 0, by decide, by simp [State.cell_setCell]⟩, ?_⟩
  rintro ⟨r, c, -, j, -, h⟩
  simp [State.cell, State.reset] at h

theorem witness_FlagSetIffCellTurnedOff : (placed 0x200 0xFFE 0).i.toNat + (2 : Fin 16).val ≤ 4096 := by
  decide

theorem witness_SameDrawTwiceRestoresDisplay :
    (0x3 : Fin 16) ≠ 0xF ∧ (0xE : Fin 16) ≠ 0xF ∧ (placed 0x200 0xFFE 0).i.toNat + (2 : Fin 16).val ≤ 4096 := by
  decide

theorem witness_FetchPastMemoryFaults :
    State.Running { State.reset with pc := 0xFFF } ∧ 0xFFF ≤ (0xFFF : Word).toNat := ⟨rfl, by decide⟩

theorem witness_SpritePastMemoryFaults :
    0 < (0xF : Fin 16).val ∧ 4096 ≤ (placed 0x200 0xFF2 0xD00F).i.toNat + (0xF : Fin 16).val - 1 ∧
    (placed 0x200 0xFF2 0xD00F).Fetches
      (0xD000 + (0 : Fin 16).val * 256 + (0 : Fin 16).val * 16 + (0xF : Fin 16).val) :=
  ⟨by decide, by decide, ⟨rfl, by decide, by decide⟩⟩

theorem witness_FaultsArePreciseAndOnlyOutOfBounds :
    (∃ t, stepTransaction { State.reset with pc := 0xFFF } = .next (t, .fault .fetchOob)) ∧
    (∃ t, stepTransaction (placed 0x200 0xFFE 0xD003) = .next (t, .fault .spriteOob)) :=
  ⟨⟨_, rfl⟩, ⟨_, rfl⟩⟩

theorem witness_faulted_block : ¬ State.Running { State.reset with faulted := true } := by
  simp [State.Running]

/-- One witness for FaultedBlockRefusesStep and OnlyResetOrLoadLeavesFault, with the boundary lengths. -/
theorem witness_OnlyResetOrLoadLeavesFault :
    ¬ State.Running { State.reset with faulted := true } ∧
    (List.replicate 3584 (0xAB : Byte)).length ≤ 3584 ∧ ¬ (List.replicate 3585 (0xAB : Byte)).length ≤ 3584 := by
  exact ⟨witness_faulted_block, List.length_replicate.le, by rw [List.length_replicate]; decide⟩

/-- A state in which each writer of OnlyNamedInstructionsWrite changes its element. -/
theorem witness_OnlyNamedInstructionsWrite :
    (∃ t, exec (.opANNN 1) State.reset = .next t ∧ t.i ≠ State.reset.i) ∧
    (∃ t, exec .op00E0 (State.reset.setCell 0 true) = .next t ∧ ¬ (State.reset.setCell 0 true).SameDisp t) ∧
    (∃ t, exec (.op6XNN 2 1) State.reset = .next t ∧ t.readV 2 ≠ State.reset.readV 2) ∧
    (∃ t, exec (.op1NNN 0) State.reset = .next t ∧ t.pc ≠ State.reset.pc) ∧
    (∃ t, exec (.opDXYN 0 0 3) (placed 0x202 0xFFE 0) = .next t ∧ ¬ (placed 0x202 0xFFE 0).SameFault t) := by
  refine ⟨⟨_, rfl, by decide⟩, ⟨_, rfl, ?_⟩, ⟨_, rfl, by decide⟩, ⟨_, rfl, by decide⟩, ⟨_, rfl, ?_⟩⟩
  · intro h
    have := h 0
    simp [State.cell_setCell] at this
  · rintro ⟨h, -⟩
    exact absurd h (by decide)

theorem witness_OnlyResetAndLoadWriteMemory :
    (∃ t r, transact .reset (at200 0x6A42) = .next (t, r) ∧ t.mem.read 0x200 ≠ (at200 0x6A42).mem.read 0x200) ∧
    (∃ t r, transact .step (at200 0x6A42) = .next (t, r)) :=
  ⟨⟨_, _, rfl, by decide⟩, ⟨_, _, rfl⟩⟩

theorem witness_KeyStateInfluencesNoStep : ∃ t r, transact .reset (at200 0x6A42) = .next (t, r) :=
  ⟨_, _, rfl⟩

theorem witness_ResetEstablishesState : (79 : Nat) < 80 ∧ (80 : Nat) ≤ 4095 ∧ (4095 : Nat) < 4096 := by decide

theorem witness_LoadRomResetsAndCopies :
    3584 < (List.replicate 3585 (0xAB : Byte)).length ∧ (List.replicate 3584 (0xAB : Byte)).length ≤ 3584 := by
  exact ⟨by rw [List.length_replicate]; decide, List.length_replicate.le⟩

/-- A loaded program in the reset state satisfies the invariant, so a step from it is a witness. -/
theorem at200_6A42_inv : (at200 0x6A42).Inv where
  memWf := by decide
  font := by
    intro a h
    have : (at200 0x6A42).mem = [(0x200, 0x6A), (0x201, 0x42)] := by decide
    rw [this, Memory.read_cons_pair, if_neg (by omega), Memory.read_cons_pair, if_neg (by omega)]
    exact Memory.unlisted_font a h
  low := by
    intro a h h'
    have : (at200 0x6A42).mem = [(0x200, 0x6A), (0x201, 0x42)] := by decide
    rw [this, Memory.read_cons_pair, if_neg (by omega), Memory.read_cons_pair, if_neg (by omega)]
    exact Memory.unlisted_above a h
  pc := by decide
  i := by decide
  dt := rfl
  st := rfl
  noFault := fun _ => ⟨rfl, rfl⟩
  fault := fun h => absurd h (by decide)

theorem witness_StepKeepsInvariant :
    (at200 0x6A42).Inv ∧ ∃ t, step (at200 0x6A42) = .next t := ⟨at200_6A42_inv, _, rfl⟩

theorem witness_TransactionsKeepInvariant : (at200 0x6A42).Inv := at200_6A42_inv

end Sys2Proof.Tests
end

namespace Sys2Proof.Machine

/-! ## Family 20_memory.md: the byte order of a fetch -/

/-- Settles O5: inside memory a fetch joins the two bytes at PC (R103), and the joined word has the byte
at the lower address as its high byte (R65). -/
theorem fetchIsBigEndian : Obligations.FetchIsBigEndian := by
  intro s hpc
  exact ⟨_, fetch_some s hpc, wordOfBytes_toNat _ _⟩

end Sys2Proof.Machine

namespace Sys2Proof

/-! ## Family 30_encoding.md: the opcode map

The equations of the decoder from the value of a word, its fields written as numbers (R81, R84). -/

/-- Serves every class whose constructor `f` takes the low 12 bits: 1NNN, ANNN and the no-ops. -/
theorem decode_of_toNat_nnn {f : Addr12 → Instr} {c : Nat}
    (hf : ∀ op : Word, op.toNat / 4096 = c → decode op = f (fieldNNN op))
    {op : Word} {a : Addr12} (h : op.toNat = c * 4096 + a.toNat) : decode op = f a := by
  have hNNN : fieldNNN op = a := BitVec.eq_of_toNat_eq (by rw [fieldNNN_toNat]; omega)
  rw [hf op (by omega), hNNN]

/-- Serves the two classes whose constructor `f` takes X and NN. -/
theorem decode_of_toNat_xnn {f : RegIdx → Byte → Instr} {c : Nat}
    (hf : ∀ op : Word, op.toNat / 4096 = c → decode op = f (fieldX op) (fieldNN op))
    {op : Word} {x : RegIdx} {nn : Byte} (h : op.toNat = c * 4096 + x.val * 256 + nn.toNat) :
    decode op = f x nn := by
  have hX : fieldX op = x := Fin.ext (by rw [fieldX_val]; omega)
  have hNN : fieldNN op = nn := BitVec.eq_of_toNat_eq (by rw [fieldNN_toNat]; omega)
  rw [hf op (by omega), hX, hNN]

theorem decode_of_toNat_DXYN {op : Word} {x y : RegIdx} {n : Fin 16}
    (h : op.toNat = 0xD000 + x.val * 256 + y.val * 16 + n.val) : decode op = .opDXYN x y n := by
  have hX : fieldX op = x := Fin.ext (by rw [fieldX_val]; omega)
  have hY : fieldY op = y := Fin.ext (by rw [fieldY_val]; omega)
  have hN : fieldN op = n := Fin.ext (by rw [fieldN_val]; omega)
  rw [decode_classD op (by omega), hX, hY, hN]

theorem decodeClass0_of_ne {op : Word} (h : op.toNat ≠ 0x00E0) :
    decodeClass0 op = .nopZeroGroup (fieldNNN op) :=
  if_neg fun he => h (congrArg BitVec.toNat he)

theorem decode_of_toNat_zeroGroup {op : Word} {a : BitVec 12} (h : op.toNat = a.toNat)
    (ha : a.toNat ≠ 0x0E0) : decode op = .nopZeroGroup a := by
  have hNNN : fieldNNN op = a := BitVec.eq_of_toNat_eq (by rw [fieldNNN_toNat]; omega)
  rw [decode_class0 op (by omega), decodeClass0_of_ne (by omega), hNNN]

/-! ## The same, from the number of which the word is made -/

theorem ofNat_toNat_word {v : Nat} (hv : v < 65536) : (BitVec.ofNat 16 v).toNat = v :=
  Nat.mod_eq_of_lt hv

theorem decode_ofNat_nnn {f : Addr12 → Instr} (c : Fin 16)
    (hf : ∀ op : Word, op.toNat / 4096 = c.val → decode op = f (fieldNNN op)) (a : Addr12) :
    decode (BitVec.ofNat 16 (c.val * 4096 + a.toNat)) = f a :=
  decode_of_toNat_nnn hf (ofNat_toNat_word (by omega))

theorem decode_ofNat_xnn {f : RegIdx → Byte → Instr} (c : Fin 16)
    (hf : ∀ op : Word, op.toNat / 4096 = c.val → decode op = f (fieldX op) (fieldNN op))
    (x : RegIdx) (nn : Byte) :
    decode (BitVec.ofNat 16 (c.val * 4096 + x.val * 256 + nn.toNat)) = f x nn :=
  decode_of_toNat_xnn hf (ofNat_toNat_word (by omega))

theorem decode_ofNat_DXYN (x y : RegIdx) (n : Fin 16) :
    decode (BitVec.ofNat 16 (0xD000 + x.val * 256 + y.val * 16 + n.val)) = .opDXYN x y n :=
  decode_of_toNat_DXYN (ofNat_toNat_word (by omega))

theorem decode_ofNat_zeroGroup {a : BitVec 12} (ha : a.toNat ≠ 0x0E0) :
    decode (BitVec.ofNat 16 a.toNat) = .nopZeroGroup a :=
  decode_of_toNat_zeroGroup (ofNat_toNat_word (by omega)) ha

end Sys2Proof

namespace Sys2Proof.Machine

/-- Settles O3: class by class, the word's value gives its class (R84) and gives the operands back (R81);
0x00E0 is one closed word. -/
theorem opcodeMap : Obligations.OpcodeMap := by
  intro x y n nn a
  refine ⟨by decide, ?_, ?_, ?_, ?_, ?_, ?_, ?_, ?_, ?_, ?_, ?_, ?_, ?_, ?_, ?_, ?_⟩
  · intro ha
    rw [Nat.zero_add]
    exact decode_ofNat_zeroGroup ha
  · exact decode_ofNat_nnn 0x1 decode_class1 a
  · exact decode_ofNat_nnn 0x2 decode_class2 a
  · exact decode_ofNat_nnn 0x3 decode_class3 a
  · exact decode_ofNat_nnn 0x4 decode_class4 a
  · exact decode_ofNat_nnn 0x5 decode_class5 a
  · exact decode_ofNat_xnn 0x6 decode_class6 x nn
  · exact decode_ofNat_xnn 0x7 decode_class7 x nn
  · exact decode_ofNat_nnn 0x8 decode_class8 a
  · exact decode_ofNat_nnn 0x9 decode_class9 a
  · exact decode_ofNat_nnn 0xA decode_classA a
  · exact decode_ofNat_nnn 0xB decode_classB a
  · exact decode_ofNat_nnn 0xC decode_classC a
  · exact decode_ofNat_DXYN x y n
  · exact decode_ofNat_nnn 0xE decode_classE a
  · exact decode_ofNat_nnn 0xF decode_classF a

end Sys2Proof.Machine

namespace Sys2Proof.Machine

/-! ## Family 41_display_clear.md: clear screen as a whole STEP

First the rules every STEP of a running block shares: from the value of the word it fetches to what the STEP
leaves (R103 to R113). -/

section FetchedWord

variable {s t : State} {v : Nat}

theorem State.Fetches.stepTransaction_eq (h : s.Fetches v) :
    stepTransaction s = runWord (BitVec.ofNat 16 v) s := by
  have hword : wordOfBytes (s.mem.read s.pc.toNat) (s.mem.read (s.pc.toNat + 1)) = BitVec.ofNat 16 v := by
    rw [← h.word, ← wordOfBytes_toNat, BitVec.ofNat_toNat, BitVec.setWidth_eq]
  have hrun : s.faulted = false := h.running
  simp [stepTransaction, hrun, fetch_some s h.inMemory, hword]

/-- A fetched word whose meaning completes gets the tick and the response OK (R110). -/
theorem State.Fetches.stepTransaction_ok (h : s.Fetches v)
    (hexec : exec (decode (BitVec.ofNat 16 v)) s.advancePc = .next t) (ht : t.Running) :
    stepTransaction s =
      .next (t.tick, .ok (unimplEvent (decode (BitVec.ofNat 16 v)) (BitVec.ofNat 16 v))) := by
  have hrun : t.faulted = false := ht
  rw [h.stepTransaction_eq, runWord_next hexec]
  simp [hrun]

theorem State.Fetches.step_eq_tick (h : s.Fetches v)
    (hexec : exec (decode (BitVec.ofNat 16 v)) s.advancePc = .next t) (ht : t.Running) :
    step s = .next t.tick :=
  step_of_transaction (h.stepTransaction_ok hexec ht) StepResponse.noConfusion

/-- The advance of a fetching block does not wrap (R104): PC + 1 lies in memory. -/
theorem State.Fetches.advancePc_pc_toNat (h : s.Fetches v) : s.advancePc.pc.toNat = s.pc.toNat + 2 := by
  have hpc := h.inMemory
  rw [State.advancePc_pc]
  bv_omega

end FetchedWord

theorem decode_ofNat_clearScreen : decode (BitVec.ofNat 16 0x00E0) = .op00E0 := by decide

@[simp] theorem State.cell_tick (s : State) (j : CellIdx) : s.tick.cell j = s.cell j := rfl

/-- Settles O10: the STEP is the advance, `clearDisplay` and the tick; each clause is what these three do to
one element. -/
theorem clearScreenStep : Obligations.ClearScreenStep := by
  intro s h
  have hexec : exec (decode (BitVec.ofNat 16 0x00E0)) s.advancePc = .next s.advancePc.clearDisplay := by
    rw [decode_ofNat_clearScreen, exec_op00E0]
  refine ⟨s.advancePc.clearDisplay.tick, h.step_eq_tick hexec h.running, ?cells, h.advancePc_pc_toNat,
    ?regs, rfl, ?mem, rfl, countDown_toNat s.dt, h.running⟩
  case cells =>
    intro j
    rw [State.cell_tick, State.cell_clearDisplay]
  case regs =>
    intro k
    rw [State.readV_tick, State.readV_clearDisplay, State.readV_advancePc]
  case mem =>
    intro a
    rw [State.tick_mem, State.clearDisplay_mem, State.advancePc_mem]

end Sys2Proof.Machine

namespace Sys2Proof.Machine

/-! ## Family 42_jump.md: the jump as a whole STEP, and the fetch past memory that may follow it -/

@[simp] theorem State.cell_setPc (s : State) (a : Word) (j : CellIdx) : (s.setPc a).cell j = s.cell j := rfl

@[simp] theorem State.cell_advancePc (s : State) (j : CellIdx) : s.advancePc.cell j = s.cell j := rfl

/-- A running block whose PC + 1 is past memory answers FETCH_OOB, its fault precise (R102, R202). -/
theorem State.Running.stepTransaction_fetchOob {s : State} (h : s.Running) (hpc : 4096 ≤ s.pc.toNat + 1) :
    stepTransaction s = .next (s.raiseMemoryOutOfBounds .fetchOob s.pc, .fault .fetchOob) := by
  have hrun : s.faulted = false := h
  obtain ⟨hfaulted, -⟩ | ⟨-, -, hstep⟩ | ⟨-, hin, -⟩ := stepTransaction_cases s
  · exact absurd hfaulted (by simp [hrun])
  · exact hstep
  · omega

/-- Settles O11: the STEP is the advance, `setPc` over the PC it wrote, and the tick; with NNN = 0xFFF the
block still runs but PC + 1 is past memory, so the next STEP's fetch faults. -/
theorem jumpStep : Obligations.JumpStep := by
  intro s nnn h
  have hdecode : decode (BitVec.ofNat 16 (0x1000 + nnn.toNat)) = .op1NNN nnn :=
    decode_ofNat_nnn 0x1 decode_class1 nnn
  have hexec : exec (decode (BitVec.ofNat 16 (0x1000 + nnn.toNat))) s.advancePc =
      .next (s.advancePc.setPc (addrOperand nnn)) := by
    rw [hdecode, exec_op1NNN]
  have hpc : (s.advancePc.setPc (addrOperand nnn)).tick.pc.toNat = nnn.toNat := by
    rw [State.tick_pc, State.setPc_pc, addrOperand_toNat]
  have hrun : (s.advancePc.setPc (addrOperand nnn)).tick.Running := h.running
  refine ⟨(s.advancePc.setPc (addrOperand nnn)).tick, h.step_eq_tick hexec h.running, hpc, ?regs, rfl,
    ?cells, ?mem, rfl, countDown_toNat s.dt, hrun, ?next⟩
  case regs =>
    intro k
    rw [State.readV_tick, State.readV_setPc, State.readV_advancePc]
  case cells =>
    intro j
    rw [State.cell_tick, State.cell_setPc, State.cell_advancePc]
  case mem =>
    intro a
    rw [State.tick_mem, State.setPc_mem, State.advancePc_mem]
  case next =>
    intro hlast
    exact ⟨_, hrun.stepTransaction_fetchOob (by omega)⟩

end Sys2Proof.Machine

namespace Sys2Proof.Machine

/-! ## Family 43_register_immediate.md: the register and index immediates as whole STEPs -/

@[simp] theorem State.cell_setI (s : State) (a : Word) (j : CellIdx) : (s.setI a).cell j = s.cell j := rfl

/-- A fetched word whose meaning is one register write: the STEP is the advance, the write and the tick
(R104, R110). Serves 6XNN and 7XNN, which differ only in the byte they write. -/
theorem State.Fetches.step_writeV {s : State} {v : Nat} {x : RegIdx} {b : Byte} (h : s.Fetches v)
    (hexec : exec (decode (BitVec.ofNat 16 v)) s.advancePc = .next (s.advancePc.writeV x b)) :
    ∃ t, step s = .next t ∧ t.readV x = b ∧ (∀ k, k ≠ x → t.readV k = s.readV k) ∧
      t.pc.toNat = s.pc.toNat + 2 ∧ t.i = s.i ∧ s.SameDisp t ∧ s.SameMem t ∧ t.keys = s.keys ∧
      t.dt.toNat = s.dt.toNat - 1 ∧ t.Running := by
  refine ⟨(s.advancePc.writeV x b).tick, h.step_eq_tick hexec h.running, ?written, ?others,
    h.advancePc_pc_toNat, rfl, ?cells, ?mem, rfl, countDown_toNat s.dt, h.running⟩
  case written =>
    rw [State.readV_tick, State.readV_writeV_self]
  case others =>
    intro k hk
    rw [State.readV_tick, State.readV_writeV_of_ne _ x k b hk, State.readV_advancePc]
  case cells =>
    intro j
    rw [State.cell_tick, State.cell_writeV, State.cell_advancePc]
  case mem =>
    intro a
    rw [State.tick_mem, State.writeV_mem, State.advancePc_mem]

/-- Settles O12: a class-6 word decodes to 6XNN, whose meaning is the register write of NN. -/
theorem loadImmediateStep : Obligations.LoadImmediateStep := by
  intro s x nn h
  have hdecode : decode (BitVec.ofNat 16 (0x6000 + x.val * 256 + nn.toNat)) = .op6XNN x nn :=
    decode_ofNat_xnn 0x6 decode_class6 x nn
  exact h.step_writeV (by rw [hdecode, exec_op6XNN])

/-- Settles O13: a class-7 word decodes to 7XNN, whose meaning is the register write of V[x] + NN; V[x] is
read after the advance, which leaves it, and the sum is modulo 256 (R143). -/
theorem addImmediateStep : Obligations.AddImmediateStep := by
  intro s x nn h
  have hdecode : decode (BitVec.ofNat 16 (0x7000 + x.val * 256 + nn.toNat)) = .op7XNN x nn :=
    decode_ofNat_xnn 0x7 decode_class7 x nn
  have hexec : exec (decode (BitVec.ofNat 16 (0x7000 + x.val * 256 + nn.toNat))) s.advancePc =
      .next (s.advancePc.writeV x (addByte (s.readV x) nn)) := by
    rw [hdecode, exec_op7XNN, State.readV_advancePc]
  obtain ⟨t, hstep, hsum, hframe⟩ := h.step_writeV hexec
  exact ⟨t, hstep, by rw [hsum, addByte_toNat], hframe⟩

/-- Settles O14: a class-A word decodes to ANNN; the STEP is the advance, `setI` of NNN zero-extended (R82)
and the tick. -/
theorem loadIndexStep : Obligations.LoadIndexStep := by
  intro s nnn h
  have hdecode : decode (BitVec.ofNat 16 (0xA000 + nnn.toNat)) = .opANNN nnn :=
    decode_ofNat_nnn 0xA decode_classA nnn
  have hexec : exec (decode (BitVec.ofNat 16 (0xA000 + nnn.toNat))) s.advancePc =
      .next (s.advancePc.setI (addrOperand nnn)) := by
    rw [hdecode, exec_opANNN]
  refine ⟨(s.advancePc.setI (addrOperand nnn)).tick, h.step_eq_tick hexec h.running, ?index, ?regs,
    h.advancePc_pc_toNat, ?cells, ?mem, rfl, countDown_toNat s.dt, h.running⟩
  case index =>
    rw [State.tick_i, State.setI_i, addrOperand_toNat]
  case regs =>
    intro k
    rw [State.readV_tick, State.readV_setI, State.readV_advancePc]
  case cells =>
    intro j
    rw [State.cell_tick, State.cell_setI, State.cell_advancePc]
  case mem =>
    intro a
    rw [State.tick_mem, State.setI_mem, State.advancePc_mem]

end Sys2Proof.Machine

namespace Sys2Proof.Machine

/-! ## Family 44_sprite_draw.md: one bit of a sprite

The terms of a sprite claim (a bit as a digit of the byte, a cell by its place, a coordinate by the mode) as
the values the draw computes with. -/

/-- R163: bit 7 - c as a binary digit of the byte's value. -/
theorem spriteBit_eq_decide (row : Byte) (c : Nat) :
    spriteBit row c = decide (row.toNat / 2 ^ (7 - c) % 2 = 1) :=
  Nat.testBit_eq_decide_div_mod_eq

/-- R164: LATCHED takes the value read before the draw, LIVE the register's value now. -/
theorem coordinate_eq_ite (mode : Config.DrawCoordRead) (latched : Byte) (x : RegIdx) (s : State) :
    coordinate mode latched x s = if mode = .latched then latched else s.readV x := by
  cases mode <;> rfl

/-- R165: the place of a sprite's pixel is the number of the cell the draw addresses. -/
theorem pixelIndex_val (vx vy : Byte) (r c : Nat) : (pixelIndex vx vy r c).val = cellAt vx vy r c :=
  congrArg _ (Nat.mul_comm _ 64)

theorem State.lit_val_iff (s : State) (idx : CellIdx) : s.lit idx.val ↔ s.cell idx = true where
  mp := by
    rintro ⟨j, hj, hlit⟩
    exact Fin.ext hj ▸ hlit
  mpr hlit := ⟨idx, rfl, hlit⟩

theorem readV_invertCell_of_lit {s : State} {idx : CellIdx} (h : s.lit idx.val) :
    (invertCell idx s).readV 0xF = 1 := by
  rw [readV_invertCell, if_pos ⟨rfl, (s.lit_val_iff idx).mp h⟩]

theorem readV_invertCell_of_not_lit {s : State} {idx : CellIdx} (h : ¬ s.lit idx.val) (k : RegIdx) :
    (invertCell idx s).readV k = s.readV k := by
  rw [readV_invertCell, if_neg fun hk => h ((s.lit_val_iff idx).mpr hk.2)]

/-- Settles O23: a clear bit draws nothing; a set bit is `invertCell` at the pixel's index, which is the place
`cellAt` gives, so the cells and V[0xF] are what `invertCell` makes of them. -/
theorem spriteBitInvertsOneCell : Obligations.SpriteBitInvertsOneCell := by
  intro mode lx ly row x y r c s _ vx vy t
  refine ⟨fun hclear => ?clear, fun hset => ?set⟩
  case clear =>
    have hbit : spriteBit row c = false := by rw [spriteBit_eq_decide, hclear]; rfl
    exact drawPixel_clear hbit mode lx ly x y r s
  case set =>
    have hbit : spriteBit row c = true := by rw [spriteBit_eq_decide, hset]; rfl
    have ht : t = invertCell (pixelIndex vx vy r c) s :=
      (drawPixel_set hbit mode lx ly x y r s).trans (by rw [coordinate_eq_ite, coordinate_eq_ite])
    rw [ht, ← pixelIndex_val]
    refine ⟨(pixelIndex vx vy r c).isLt, fun j => ?_, readV_invertCell_of_lit,
      fun hoff => readV_invertCell_of_not_lit hoff 0xF⟩
    simp only [cell_invertCell, Fin.ext_iff]

end Sys2Proof.Machine

namespace Sys2Proof.Machine

/-! ## Family 70_reset_and_hazards.md: LOAD_ROM

One equation of the transaction for each side of its length check (R233, R235). -/

theorem transact_loadRom_of_tooLarge (s : State) {bytes : List Byte} (h : 3584 < bytes.length) :
    transact (.loadRom bytes) s = .next (s, .romTooLarge) :=
  congrArg Host.Outcome.next (if_pos h)

theorem transact_loadRom_of_fits (s : State) {bytes : List Byte} (h : bytes.length ≤ 3584) :
    transact (.loadRom bytes) s =
      .next ({ State.reset with mem := State.reset.mem.writeBytes 0x200 bytes }, .ok) :=
  congrArg Host.Outcome.next (if_neg (Nat.not_lt.mpr h))

/-- Settles O38: a sequence that fits is a copy into the memory of the reset state, and 0x200 + 3584 is the
end of memory, so each byte is stored at its address and the copy's frame is every other address. -/
theorem loadRomResetsAndCopies : Obligations.LoadRomResetsAndCopies := by
  intro s bytes
  refine ⟨transact_loadRom_of_tooLarge s, fun hlen => ?fits⟩
  case fits =>
    have hend : 0x200 + bytes.length ≤ 4096 := by omega
    refine ⟨_, transact_loadRom_of_fits s hlen, ?copied, ?others, rfl⟩
    case copied => exact Memory.read_writeBytes_inside bytes State.reset_mem_wf hend
    case others =>
      intro a ha
      exact Memory.read_writeBytes_outside bytes State.reset_mem_wf hend ha

end Sys2Proof.Machine

namespace Sys2Proof

/-! ## Family "other": encoding

The round trip, constructor by constructor: an encoded word has its class and its fields as its value
(`wordOfClass_toNat`), and the decoder reads them back (R84, R91). -/

theorem decode_wordOfClass {f : Addr12 → Instr} (c : BitVec 4)
    (hf : ∀ op : Word, op.toNat / 4096 = c.toNat → decode op = f (fieldNNN op)) (a : Addr12) :
    decode (wordOfClass c a) = f a :=
  decode_of_toNat_nnn hf (wordOfClass_toNat c a)

theorem decode_wordOfClass_xnn {f : RegIdx → Byte → Instr} (c : BitVec 4)
    (hf : ∀ op : Word, op.toNat / 4096 = c.toNat → decode op = f (fieldX op) (fieldNN op))
    (x : RegIdx) (nn : Byte) : decode (wordOfClass c (nibble x ++ nn)) = f x nn :=
  decode_of_toNat_xnn hf (by rw [wordOfClass_toNat, nibble_byte_toNat, Nat.add_assoc])

theorem encode_DXYN_toNat (x y : RegIdx) (n : Fin 16) :
    (encode (.opDXYN x y n)).toNat = 0xD000 + x.val * 256 + y.val * 16 + n.val := by
  rw [encode, wordOfClass_toNat, nibbles_toNat, Nat.add_assoc, Nat.add_assoc, Nat.add_assoc]
  rfl

theorem decode_wordOfClass_zeroGroup {w : BitVec 12} (h : w ≠ clearScreenLow) :
    decode (wordOfClass 0x0 w) = .nopZeroGroup w :=
  decode_of_toNat_zeroGroup (by rw [wordOfClass_toNat]; simp)
    fun hw => h (BitVec.eq_of_toNat_eq hw)

/-- Decoding undoes encoding (R91). -/
theorem decode_encode {i : Instr} (h : i.wellFormed = true) : decode (encode i) = i := by
  cases i with
  | op00E0 => decide
  | op1NNN a => exact decode_wordOfClass 0x1 decode_class1 a
  | op6XNN x nn => exact decode_wordOfClass_xnn 0x6 decode_class6 x nn
  | op7XNN x nn => exact decode_wordOfClass_xnn 0x7 decode_class7 x nn
  | opANNN a => exact decode_wordOfClass 0xA decode_classA a
  | opDXYN x y n => exact decode_of_toNat_DXYN (encode_DXYN_toNat x y n)
  | nopZeroGroup w => exact decode_wordOfClass_zeroGroup (bne_iff_ne.mp h)
  | nopClass2 w => exact decode_wordOfClass 0x2 decode_class2 w
  | nopClass3 w => exact decode_wordOfClass 0x3 decode_class3 w
  | nopClass4 w => exact decode_wordOfClass 0x4 decode_class4 w
  | nopClass5 w => exact decode_wordOfClass 0x5 decode_class5 w
  | nopClass8 w => exact decode_wordOfClass 0x8 decode_class8 w
  | nopClass9 w => exact decode_wordOfClass 0x9 decode_class9 w
  | nopClassB w => exact decode_wordOfClass 0xB decode_classB w
  | nopClassC w => exact decode_wordOfClass 0xC decode_classC w
  | nopClassE w => exact decode_wordOfClass 0xE decode_classE w
  | nopClassF w => exact decode_wordOfClass 0xF decode_classF w

/-- Settles O1: the word is `decode_encode`; the bytes are the word's own two, and joined they are the word
again (R65). -/
theorem decodeOfEncodeIsIdentity : Obligations.DecodeOfEncodeIsIdentity := by
  intro i hi
  refine ⟨decode_encode hi, fun rest => ?bytes⟩
  case bytes =>
    calc decodeBytes (encodeBytes i ++ rest)
        = .ok (decode (wordOfBytes (hiByte (encode i)) (loByte (encode i))), rest) := rfl
      _ = .ok (i, rest) := by rw [wordOfBytes_hi_lo, decode_encode hi]

/-! ## Every word is encoded by a well-formed instruction, class by class (R84, R86) -/

section

variable {op : Word}

theorem wordOfClass_fieldNNN {c : BitVec 4} (h : op.toNat / 4096 = c.toNat) :
    wordOfClass c (fieldNNN op) = op := by
  apply BitVec.eq_of_toNat_eq
  rw [wordOfClass_toNat, fieldNNN_toNat]
  omega

theorem nibble_fieldX_append_fieldNN : nibble (fieldX op) ++ fieldNN op = fieldNNN op := by
  apply BitVec.eq_of_toNat_eq
  rw [nibble_byte_toNat, fieldX_val, fieldNN_toNat, fieldNNN_toNat]
  omega

theorem nibbles_fieldX_fieldY_fieldN :
    nibble (fieldX op) ++ nibble (fieldY op) ++ nibble (fieldN op) = fieldNNN op := by
  apply BitVec.eq_of_toNat_eq
  rw [nibbles_toNat, fieldX_val, fieldY_val, fieldN_val, fieldNNN_toNat]
  omega

theorem fieldNNN_ne_clearScreenLow (hclass : op.toNat / 4096 = 0) (h : op ≠ 0x00E0) :
    fieldNNN op ≠ clearScreenLow := by
  intro hw
  have hlow : op.toNat % 4096 = 0x0E0 := by rw [← fieldNNN_toNat, hw]; rfl
  apply h
  apply BitVec.eq_of_toNat_eq
  change op.toNat = 0x0E0
  omega

end

theorem exists_wellFormed_encode (op : Word) : ∃ i : Instr, i.wellFormed = true ∧ encode i = op := by
  have hclass : op.toNat / 4096 < 16 := class_lt op
  generalize hc : op.toNat / 4096 = c at hclass
  interval_cases c
  · by_cases h : op = 0x00E0
    · exact ⟨.op00E0, rfl, h.symm⟩
    · exact ⟨.nopZeroGroup (fieldNNN op), bne_iff_ne.mpr (fieldNNN_ne_clearScreenLow hc h),
        wordOfClass_fieldNNN hc⟩
  · exact ⟨.op1NNN (fieldNNN op), rfl, wordOfClass_fieldNNN hc⟩
  · exact ⟨.nopClass2 (fieldNNN op), rfl, wordOfClass_fieldNNN hc⟩
  · exact ⟨.nopClass3 (fieldNNN op), rfl, wordOfClass_fieldNNN hc⟩
  · exact ⟨.nopClass4 (fieldNNN op), rfl, wordOfClass_fieldNNN hc⟩
  · exact ⟨.nopClass5 (fieldNNN op), rfl, wordOfClass_fieldNNN hc⟩
  · exact ⟨.op6XNN (fieldX op) (fieldNN op), rfl,
      (congrArg (wordOfClass 0x6) nibble_fieldX_append_fieldNN).trans (wordOfClass_fieldNNN hc)⟩
  · exact ⟨.op7XNN (fieldX op) (fieldNN op), rfl,
      (congrArg (wordOfClass 0x7) nibble_fieldX_append_fieldNN).trans (wordOfClass_fieldNNN hc)⟩
  · exact ⟨.nopClass8 (fieldNNN op), rfl, wordOfClass_fieldNNN hc⟩
  · exact ⟨.nopClass9 (fieldNNN op), rfl, wordOfClass_fieldNNN hc⟩
  · exact ⟨.opANNN (fieldNNN op), rfl, wordOfClass_fieldNNN hc⟩
  · exact ⟨.nopClassB (fieldNNN op), rfl, wordOfClass_fieldNNN hc⟩
  · exact ⟨.nopClassC (fieldNNN op), rfl, wordOfClass_fieldNNN hc⟩
  · exact ⟨.opDXYN (fieldX op) (fieldY op) (fieldN op), rfl,
      (congrArg (wordOfClass 0xD) nibbles_fieldX_fieldY_fieldN).trans (wordOfClass_fieldNNN hc)⟩
  · exact ⟨.nopClassE (fieldNNN op), rfl, wordOfClass_fieldNNN hc⟩
  · exact ⟨.nopClassF (fieldNNN op), rfl, wordOfClass_fieldNNN hc⟩

theorem decode_wellFormed (op : Word) : (decode op).wellFormed = true := by
  obtain ⟨i, hi, rfl⟩ := exists_wellFormed_encode op
  rwa [decode_encode hi]

/-- Encoding undoes decoding (R91). -/
theorem encode_decode (op : Word) : encode (decode op) = op := by
  obtain ⟨i, hi, rfl⟩ := exists_wellFormed_encode op
  rw [decode_encode hi]

/-- Settles O2: existence is class by class; two instructions with one word are what that word decodes to. -/
theorem everyWordIsOneInstruction : Obligations.EveryWordIsOneInstruction := by
  intro op
  refine ⟨decode_wellFormed op, encode_decode op, fun i hi hop => ?unique⟩
  case unique => rw [← hop, decode_encode hi]

/-- Settles O4: nine closed words. -/
theorem exampleWordsDecode : Obligations.ExampleWordsDecode := by
  unfold Obligations.ExampleWordsDecode
  decide

end Sys2Proof

namespace Sys2Proof.Machine

/-! ## Family "other": what an instruction can do

One inversion of `exec`: it always answers a next state, which is the fault of a DXYN out of bounds or a
completion that changes no more than the instruction's own elements. -/

/-- What a completing `i` may change from `s` to `t`: V, PC, I and the display alone, each by its own
instructions alone (R20). -/
structure Completes (i : Instr) (s t : State) : Prop where
  rest : t = { s with v := t.v, pc := t.pc, i := t.i, disp := t.disp }
  pc : (∃ a, i = .op1NNN a ∧ t.pc = addrOperand a) ∨ ((∀ a, i ≠ .op1NNN a) ∧ t.pc = s.pc)
  index : (∃ a, i = .opANNN a ∧ t.i = addrOperand a) ∨ t.i = s.i
  disp : i = .op00E0 ∨ (∃ x y n, i = .opDXYN x y n) ∨ s.SameDisp t
  regs : ∀ k, t.readV k = s.readV k ∨ (∃ nn, i = .op6XNN k nn) ∨ (∃ nn, i = .op7XNN k nn) ∨
    (k = 0xF ∧ ∃ x y n, i = .opDXYN x y n)

namespace Completes

variable {i : Instr} {s t : State}

theorem mem (h : Completes i s t) : t.mem = s.mem := by rw [h.rest]
theorem keys (h : Completes i s t) : t.keys = s.keys := by rw [h.rest]
theorem dt (h : Completes i s t) : t.dt = s.dt := by rw [h.rest]
theorem st (h : Completes i s t) : t.st = s.st := by rw [h.rest]
theorem faulted (h : Completes i s t) : t.faulted = s.faulted := by rw [h.rest]
theorem faultCause (h : Completes i s t) : t.faultCause = s.faultCause := by rw [h.rest]
theorem faultPc (h : Completes i s t) : t.faultPc = s.faultPc := by rw [h.rest]

theorem sameMem (h : Completes i s t) : s.SameMem t := fun a => by rw [h.mem]
theorem sameTimers (h : Completes i s t) : s.SameTimers t := ⟨h.dt, h.st⟩
theorem sameFault (h : Completes i s t) : s.SameFault t := ⟨h.faulted, h.faultCause, h.faultPc⟩

theorem sameUnwritten (h : Completes i s t) : s.SameUnwritten t :=
  ⟨h.sameMem, h.keys, h.sameTimers, h.sameFault⟩

/-! One rule per instruction. -/

/-- Serves the eleven no-ops: the instructions with an event class. -/
theorem unchanged (hi : unimplClass i ≠ none) (s : State) : Completes i s s :=
  ⟨rfl, .inr ⟨fun _ h => hi (by rw [h]; rfl), rfl⟩, .inr rfl, .inr (.inr fun _ => rfl), fun _ => .inl rfl⟩

theorem clearDisplay (s : State) : Completes .op00E0 s s.clearDisplay :=
  ⟨rfl, .inr ⟨nofun, rfl⟩, .inr rfl, .inl rfl, fun _ => .inl rfl⟩

theorem setPc (a : Addr12) (s : State) : Completes (.op1NNN a) s (s.setPc (addrOperand a)) :=
  ⟨rfl, .inl ⟨a, rfl, rfl⟩, .inr rfl, .inr (.inr fun _ => rfl), fun _ => .inl rfl⟩

theorem setI (a : Addr12) (s : State) : Completes (.opANNN a) s (s.setI (addrOperand a)) :=
  ⟨rfl, .inr ⟨nofun, rfl⟩, .inl ⟨a, rfl, rfl⟩, .inr (.inr fun _ => rfl), fun _ => .inl rfl⟩

/-- Serves 6XNN and 7XNN, which write the same register. -/
theorem writeV {x : RegIdx} (nn : Byte) (hi : i = .op6XNN x nn ∨ i = .op7XNN x nn) (b : Byte) (s : State) :
    Completes i s (s.writeV x b) where
  rest := rfl
  pc := .inr ⟨by rcases hi with rfl | rfl <;> nofun, rfl⟩
  index := .inr rfl
  disp := .inr (.inr fun _ => rfl)
  regs k := by
    by_cases hk : k = x
    · subst hk
      exact .inr (hi.imp (⟨nn, ·⟩) fun h => .inl ⟨nn, h⟩)
    · exact .inl (s.readV_writeV_of_ne x k b hk)

theorem drawSprite (mode : Config.DrawCoordRead) (x y n : Fin 16) (s : State) :
    Completes (.opDXYN x y n) s (drawSprite mode x y n.val s) where
  rest := rfl
  pc := .inr ⟨nofun, rfl⟩
  index := .inr rfl
  disp := .inr (.inl ⟨x, y, n, rfl⟩)
  regs k := by
    by_cases hk : k = collisionReg
    · exact .inr (.inr (.inr ⟨hk, x, y, n, rfl⟩))
    · exact .inl ((drawSprite_frame mode x y n.val s).regs k hk)

end Completes

/-- What `exec` answers, whatever the instruction and the state. -/
theorem exec_cases (i : Instr) (s : State) :
    (∃ x y n, i = .opDXYN x y n ∧ spriteOutOfBounds n.val s ∧
      exec i s = .next (s.raiseMemoryOutOfBounds .spriteOob s.instrAddr)) ∨
    ∃ t, exec i s = .next t ∧ Completes i s t := by
  cases i with
  | op00E0 => exact .inr ⟨_, rfl, .clearDisplay s⟩
  | op1NNN a => exact .inr ⟨_, rfl, .setPc a s⟩
  | op6XNN x nn => exact .inr ⟨_, rfl, .writeV nn (.inl rfl) nn s⟩
  | op7XNN x nn => exact .inr ⟨_, rfl, .writeV nn (.inr rfl) _ s⟩
  | opANNN a => exact .inr ⟨_, rfl, .setI a s⟩
  | opDXYN x y n =>
    by_cases h : spriteOutOfBounds n.val s
    · exact .inl ⟨x, y, n, rfl, h, by rw [exec_opDXYN, drawOrFault_outOfBounds h]⟩
    · exact .inr ⟨_, by rw [exec_opDXYN, drawOrFault_inBounds h], .drawSprite _ x y n s⟩
  | nopZeroGroup | nopClass2 | nopClass3 | nopClass4 | nopClass5 | nopClass8 | nopClass9 | nopClassB
  | nopClassC | nopClassE | nopClassF =>
    refine .inr ⟨s, rfl, .unchanged ?_ s⟩
    exact Option.some_ne_none _

theorem exec_next (i : Instr) (s : State) : ∃ t, exec i s = .next t := by
  obtain ⟨x, y, n, -, -, h⟩ | ⟨t, h, -⟩ := exec_cases i s
  · exact ⟨_, h⟩
  · exact ⟨t, h⟩

/-- Settles O33: a fault of DXYN writes PC and the fault fields; a completion is `Completes`, clause by
clause. -/
theorem onlyNamedInstructionsWrite : Obligations.OnlyNamedInstructionsWrite := by
  intro i s t h
  obtain ⟨x, y, n, hi, -, hexec⟩ | ⟨u, hexec, hc⟩ := exec_cases i s
  · obtain rfl : s.raiseMemoryOutOfBounds .spriteOob s.instrAddr = t :=
      Host.Outcome.next.inj (hexec.symm.trans h)
    exact ⟨fun _ => rfl, rfl, ⟨rfl, rfl⟩, fun hne => absurd rfl hne, fun hne => absurd (fun _ => rfl) hne,
      fun _ hne => absurd rfl hne, fun _ => .inr ⟨⟨x, y, n, hi⟩, rfl⟩, fun _ => ⟨⟨x, y, n, hi⟩, rfl⟩⟩
  · obtain rfl : u = t := Host.Outcome.next.inj (hexec.symm.trans h)
    refine ⟨hc.sameMem, hc.keys, hc.sameTimers, ?index, ?cells, ?regs, ?pc,
      fun hne => absurd hc.sameFault hne⟩
    case index =>
      intro hne
      obtain ⟨a, hi, -⟩ | hsame := hc.index
      · exact ⟨a, hi⟩
      · exact absurd hsame hne
    case cells =>
      intro hne
      obtain hi | hi | hsame := hc.disp
      · exact .inl hi
      · exact .inr hi
      · exact absurd hsame hne
    case regs => exact fun k hne => (hc.regs k).resolve_left hne
    case pc =>
      intro hne
      obtain ⟨a, hi, -⟩ | ⟨-, hsame⟩ := hc.pc
      · exact .inl ⟨a, hi⟩
      · exact absurd hsame hne

/-! ## Completion and frame of each instruction -/

/-- Settles O17: the meaning is one register write. -/
theorem registerImmediatesComplete : Obligations.RegisterImmediatesComplete := by
  intro s x nn
  refine ⟨⟨_, exec_op6XNN s x nn, s.readV_writeV_self x nn, ?others6, rfl, rfl, fun _ => rfl,
      (Completes.writeV nn (.inl rfl) nn s).sameUnwritten⟩,
    ⟨_, exec_op7XNN s x nn, ?sum, ?others7, rfl, rfl, fun _ => rfl,
      (Completes.writeV nn (.inr rfl) _ s).sameUnwritten⟩⟩
  case others6 | others7 => exact fun k hk => s.readV_writeV_of_ne x k _ hk
  case sum => rw [State.readV_writeV_self, addByte_toNat]

/-- Settles O18: each meaning is one write, of NNN zero-extended (R82). -/
theorem addressImmediatesComplete : Obligations.AddressImmediatesComplete := by
  intro s nnn
  exact ⟨⟨_, exec_op1NNN s nnn, addrOperand_toNat nnn, rfl, fun _ => rfl, fun _ => rfl,
      (Completes.setPc nnn s).sameUnwritten⟩,
    ⟨_, exec_opANNN s nnn, addrOperand_toNat nnn, rfl, fun _ => rfl, fun _ => rfl,
      (Completes.setI nnn s).sameUnwritten⟩⟩

/-- Settles O19: the meaning is `clearDisplay`. -/
theorem clearScreenCompletes : Obligations.ClearScreenCompletes := by
  intro s
  exact ⟨_, exec_op00E0 s, s.cell_clearDisplay, rfl, rfl, fun _ => rfl,
    (Completes.clearDisplay s).sameUnwritten⟩

/-- Settles O20: each no-op's own equation of `exec`. -/
theorem noOpsCompleteUnchanged : Obligations.NoOpsCompleteUnchanged := by
  intro s w
  exact ⟨exec_nopZeroGroup s w, exec_nopClass2 s w, exec_nopClass3 s w, exec_nopClass4 s w,
    exec_nopClass5 s w, exec_nopClass8 s w, exec_nopClass9 s w, exec_nopClassB s w, exec_nopClassC s w,
    exec_nopClassE s w, exec_nopClassF s w⟩

end Sys2Proof.Machine

namespace Sys2Proof.Machine

/-! ## Family "other": what a STEP can do

One inversion of `stepTransaction`, as the four ways a STEP can end (R101, R102, R161, R113). -/

/-- The state `t` and the response a STEP of `s` leaves. -/
inductive StepOutcome (s : State) : State → StepResponse → Prop where
  | refused (hfaulted : s.faulted = true) : StepOutcome s s .refusedFaulted
  | fetchFault (hrun : s.Running) (hpc : 4096 ≤ s.pc.toNat + 1) :
      StepOutcome s (s.raiseMemoryOutOfBounds .fetchOob s.pc) (.fault .fetchOob)
  | spriteFault (x y n : Fin 16) (hfetch : s.Fetches (0xD000 + x.val * 256 + y.val * 16 + n.val))
      (hoob : spriteOutOfBounds n.val s) :
      StepOutcome s (s.raiseMemoryOutOfBounds .spriteOob s.pc) (.fault .spriteOob)
  | completed (op : Word) (u : State) (hfetch : s.Fetches op.toNat)
      (hc : Completes (decode op) s.advancePc u) :
      StepOutcome s u.tick (.ok (unimplEvent (decode op) op))

section

variable {s t : State} {v : Nat}

theorem State.Fetches.val_unique {w : Nat} (h : s.Fetches v) (h' : s.Fetches w) : v = w :=
  h.word.symm.trans h'.word

theorem State.Running.fetches (h : s.Running) (hpc : s.pc.toNat + 1 < 4096) :
    s.Fetches (wordOfBytes (s.mem.read s.pc.toNat) (s.mem.read (s.pc.toNat + 1))).toNat :=
  ⟨h, hpc, (wordOfBytes_toNat _ _).symm⟩

theorem State.Fetches.stepTransaction_eq_runWord {op : Word} (h : s.Fetches op.toNat) :
    stepTransaction s = runWord op s := by
  rw [h.stepTransaction_eq, BitVec.ofNat_toNat, BitVec.setWidth_eq]

/-- The value of a word that decodes to DXYN: it is the encoding of what it decodes to. -/
theorem toNat_of_decode_DXYN {op : Word} {x y n : Fin 16} (h : decode op = .opDXYN x y n) :
    op.toNat = 0xD000 + x.val * 256 + y.val * 16 + n.val := by
  rw [← encode_DXYN_toNat, ← h, encode_decode op]

/-- A word with a fault of the draw: PC is the word's own address again, as before the advance (R202). -/
theorem runWord_outOfBounds {op : Word} {x y n : Fin 16} (hop : decode op = .opDXYN x y n)
    (hoob : spriteOutOfBounds n.val s) :
    runWord op s = .next (s.raiseMemoryOutOfBounds .spriteOob s.pc, .fault .spriteOob) := by
  have hexec : exec (decode op) s.advancePc = .next (s.raiseMemoryOutOfBounds .spriteOob s.pc) := by
    rw [hop, exec_opDXYN, drawOrFault_outOfBounds (s := s.advancePc) hoob, instrAddr_advancePc]
    rfl
  exact runWord_next hexec

theorem runWord_completes {op : Word} (hrun : s.Running)
    (hexec : exec (decode op) s.advancePc = .next t) (hc : Completes (decode op) s.advancePc t) :
    runWord op s = .next (t.tick, .ok (unimplEvent (decode op) op)) := by
  have ht : t.faulted = false := hc.faulted.trans hrun
  rw [runWord_next hexec, ht]
  rfl

/-- Every STEP answers a next state, in one of the four ways. -/
theorem stepTransaction_outcome (s : State) :
    ∃ t r, stepTransaction s = .next (t, r) ∧ StepOutcome s t r := by
  obtain ⟨hfaulted, hstep⟩ | ⟨hrun, hpc, hstep⟩ | ⟨hrun, hpc, hstep⟩ := stepTransaction_cases s
  · exact ⟨_, _, hstep, .refused hfaulted⟩
  · exact ⟨_, _, hstep, .fetchFault hrun hpc⟩
  · have hfetch := State.Running.fetches hrun hpc
    rw [hstep]
    generalize wordOfBytes (s.mem.read s.pc.toNat) (s.mem.read (s.pc.toNat + 1)) = op at hfetch ⊢
    obtain ⟨x, y, n, hop, hoob, -⟩ | ⟨u, hexec, hc⟩ := exec_cases (decode op) s.advancePc
    · exact ⟨_, _, runWord_outOfBounds hop hoob,
        .spriteFault x y n (toNat_of_decode_DXYN hop ▸ hfetch) hoob⟩
    · exact ⟨_, _, runWord_completes hrun hexec hc, .completed op u hfetch hc⟩

theorem StepOutcome.of_stepTransaction {r : StepResponse} (h : stepTransaction s = .next (t, r)) :
    StepOutcome s t r := by
  obtain ⟨t', r', h', ho⟩ := stepTransaction_outcome s
  obtain ⟨rfl, rfl⟩ := Prod.mk.inj (Host.Outcome.next.inj (h'.symm.trans h))
  exact ho

theorem StepOutcome.of_step (h : step s = .next t) : ∃ r, StepOutcome s t r := by
  obtain ⟨t', r, htr, ho⟩ := stepTransaction_outcome s
  cases r with
  | refusedFaulted => simp [step, cycle, htr] at h
  | ok | fault =>
    obtain rfl : t' = t :=
      Host.Outcome.next.inj ((step_of_transaction htr StepResponse.noConfusion).symm.trans h)
    exact ⟨_, ho⟩

end

/-! ## Response, timers, PC and fault of a STEP -/

/-- Settles O7: a running block is not refused, so its STEP is one of the other three outcomes. -/
theorem everyStepCompletes : Obligations.EveryStepCompletes := by
  intro s hrun
  obtain ⟨t, r, hstep, ho⟩ := stepTransaction_outcome s
  have hrun' : s.faulted = false := hrun
  cases ho with
  | refused hfaulted => simp [hrun'] at hfaulted
  | fetchFault | spriteFault =>
    exact ⟨_, _, hstep, step_of_transaction hstep nofun, .inr ⟨rfl, rfl, nofun⟩⟩
  | completed op u hfetch hc =>
    exact ⟨_, _, hstep, step_of_transaction hstep nofun, .inl ⟨_, rfl, hc.sameFault⟩⟩

theorem Completes.tick_dt_toNat {i : Instr} {s u : State} (h : Completes i s.advancePc u) :
    u.tick.dt.toNat = s.dt.toNat - 1 := by
  rw [State.tick_dt, countDown_toNat, h.dt, State.advancePc_dt]

theorem Completes.tick_st_toNat {i : Instr} {s u : State} (h : Completes i s.advancePc u) :
    u.tick.st.toNat = s.st.toNat - 1 := by
  rw [State.tick_st, countDown_toNat, h.st, State.advancePc_st]

/-- Settles O8: only a completed STEP answers OK, and it alone ends with the tick. -/
theorem timersTickOncePerStep : Obligations.TimersTickOncePerStep := by
  intro s t r hstep
  cases StepOutcome.of_stepTransaction hstep with
  | refused | fetchFault | spriteFault => exact ⟨nofun, fun _ => ⟨rfl, rfl⟩⟩
  | completed op u hfetch hc =>
    exact ⟨fun _ _ => ⟨hc.tick_dt_toNat, hc.tick_st_toNat⟩, fun hno => absurd rfl (hno _)⟩

theorem encode_1NNN_toNat (a : Addr12) : (encode (.op1NNN a)).toNat = 0x1000 + a.toNat :=
  wordOfClass_toNat 0x1 a

/-- The words that decode to 1NNN are those of class 1. -/
theorem toNat_of_decode_1NNN {op : Word} {a : Addr12} (h : decode op = .op1NNN a) :
    op.toNat = 0x1000 + a.toNat := by
  rw [← encode_1NNN_toNat, ← h, encode_decode op]

/-- Settles O9: a completed STEP has PC + 2 from the advance, over which 1NNN alone writes NNN; the other
outcomes leave PC. -/
theorem programCounterAfterStep : Obligations.ProgramCounterAfterStep := by
  intro s t r hstep
  cases StepOutcome.of_stepTransaction hstep with
  | refused | fetchFault | spriteFault => exact ⟨nofun, fun _ => rfl⟩
  | completed op u hfetch hc =>
    refine ⟨fun _ v _ hv => ?_, fun hno => absurd rfl (hno _)⟩
    obtain rfl := hfetch.val_unique hv
    rw [State.tick_pc]
    obtain ⟨a, ha, hpc⟩ | ⟨hne, hpc⟩ := hc.pc
    · have hop := toNat_of_decode_1NNN ha
      rw [hpc, addrOperand_toNat]
      omega
    · refine ⟨fun hclass => absurd (decode_class1 op hclass) (hne _), fun _ => ?_⟩
      rw [hpc, hfetch.advancePc_pc_toNat]

/-- Settles O30: of the four outcomes two are faults, and each raises from the state before the STEP. -/
theorem faultsArePreciseAndOnlyOutOfBounds : Obligations.FaultsArePreciseAndOnlyOutOfBounds := by
  intro s t c hstep
  cases StepOutcome.of_stepTransaction hstep with
  | fetchFault hrun hpc => exact ⟨rfl, .inl ⟨rfl, by omega⟩⟩
  | spriteFault x y n hfetch hoob => exact ⟨rfl, .inr ⟨rfl, x, y, n, hfetch, hoob⟩⟩

/-- Settles O28: PC of 0xFFF or above is PC + 1 past memory, where the fetch faults. -/
theorem fetchPastMemoryFaults : Obligations.FetchPastMemoryFaults := by
  intro s hrun hpc t
  have hstep : stepTransaction s = .next (t, .fault .fetchOob) :=
    hrun.stepTransaction_fetchOob (by omega)
  exact ⟨hstep, step_of_transaction hstep nofun, rfl⟩

/-- Settles O29: exec faults from the PC past the word, the STEP from the word's own PC. -/
theorem spritePastMemoryFaults : Obligations.SpritePastMemoryFaults := by
  intro s x y n hn hrows
  have hoob : spriteOutOfBounds n.val s := ⟨hn, hrows⟩
  refine ⟨?exec, fun hfetch => ?step⟩
  case exec =>
    rw [exec_opDXYN, drawOrFault_outOfBounds hoob]
    rfl
  case step =>
    intro t
    have hstep : stepTransaction s = .next (t, .fault .spriteOob) :=
      hfetch.stepTransaction_eq.trans (runWord_outOfBounds (decode_ofNat_DXYN x y n) hoob)
    exact ⟨hstep, step_of_transaction hstep nofun, rfl⟩

theorem stepTransaction_of_faulted {s : State} (h : s.faulted = true) :
    stepTransaction s = .next (s, .refusedFaulted) := if_pos h

theorem State.faulted_of_not_running {s : State} (h : ¬ s.Running) : s.faulted = true :=
  Bool.eq_true_of_not_eq_false h

/-- Settles O31: the transaction is refused, and `step` has no state for a refusal. -/
theorem faultedBlockRefusesStep : Obligations.FaultedBlockRefusesStep := by
  intro s h
  have hstep := stepTransaction_of_faulted (State.faulted_of_not_running h)
  exact ⟨hstep, by simp [step, cycle, hstep]⟩

theorem State.tick_eq_ite (t : State) :
    t.tick = { t with dt := if t.dt = 0 then 0 else t.dt - 1, st := if t.st = 0 then 0 else t.st - 1 } := rfl

/-- Settles O6: the two bytes at PC are the fetched word, the STEP runs it, and `exec` always answers a next
state, whose FAULTED decides the tick. -/
theorem stepRunsDecodedInstruction : Obligations.StepRunsDecodedInstruction := by
  intro s i hrun hpc hbytes
  have hfetch := State.Running.fetches hrun hpc
  obtain ⟨rfl, -⟩ := Prod.mk.inj (Except.ok.inj hbytes)
  generalize wordOfBytes (s.mem.read s.pc.toNat) (s.mem.read (s.pc.toNat + 1)) = op at hfetch ⊢
  refine ⟨decode_wellFormed op, ?_⟩
  obtain ⟨t, hexec⟩ := exec_next (decode op) s.advancePc
  have hadvance : exec (decode op) { s with pc := s.pc + 2 } = .next t := hexec
  have hstep := hfetch.stepTransaction_eq_runWord.trans (runWord_next hexec)
  rw [hadvance]
  cases ht : t.faulted <;> simp [step, cycle, hstep, ht, State.tick_eq_ite]

end Sys2Proof.Machine

namespace Sys2Proof.Machine

/-! ## Family "other": the event of a word (R108, R109) -/

section

variable {op : Word}

theorem unimplEvent_of_none {i : Instr} (h : unimplClass i = none) : unimplEvent i op = none := by
  rw [unimplEvent, h, Option.map_none]

theorem unimplEvent_of_some {i : Instr} {c : UnimplClass} (h : unimplClass i = some c) :
    unimplEvent i op = some (c, op) := by
  rw [unimplEvent, h, Option.map_some]

theorem unimplClass_decode_instruction
    (h : op.toNat = 0x00E0 ∨ op.toNat / 4096 ∈ [1, 6, 7, 10, 13]) : unimplClass (decode op) = none := by
  simp only [List.mem_cons, List.not_mem_nil, or_false] at h
  obtain h | h | h | h | h | h := h
  · rw [BitVec.eq_of_toNat_eq (y := 0x00E0) h]; rfl
  · rw [decode_class1 op h]; rfl
  · rw [decode_class6 op h]; rfl
  · rw [decode_class7 op h]; rfl
  · rw [decode_classA op h]; rfl
  · rw [decode_classD op h]; rfl

theorem unimplClass_decode_zeroGroup (hne : op.toNat ≠ 0x00E0) (h : op.toNat / 4096 = 0) :
    unimplClass (decode op) = some .zeroGroup := by
  rw [decode_class0 op h, decodeClass0_of_ne hne]
  rfl

theorem unimplClass_decode_noCase (h : op.toNat / 4096 ∈ [2, 3, 4, 5, 8, 9, 11, 12, 14, 15]) :
    unimplClass (decode op) = some .noCase := by
  simp only [List.mem_cons, List.not_mem_nil, or_false] at h
  obtain h | h | h | h | h | h | h | h | h | h := h
  · rw [decode_class2 op h]; rfl
  · rw [decode_class3 op h]; rfl
  · rw [decode_class4 op h]; rfl
  · rw [decode_class5 op h]; rfl
  · rw [decode_class8 op h]; rfl
  · rw [decode_class9 op h]; rfl
  · rw [decode_classB op h]; rfl
  · rw [decode_classC op h]; rfl
  · rw [decode_classE op h]; rfl
  · rw [decode_classF op h]; rfl

end

/-- Settles O44: the words by class, the constructors each by the table of `unimplClass`. -/
theorem eventClassOfEveryWord : Obligations.EventClassOfEveryWord := by
  refine ⟨fun op => ⟨?instruction, ?zeroGroup, ?noCase⟩, fun x y n nn a => ⟨rfl, ?nops, ?six⟩⟩
  case instruction => exact fun h => unimplEvent_of_none (unimplClass_decode_instruction h)
  case zeroGroup => exact fun hne h => unimplEvent_of_some (unimplClass_decode_zeroGroup hne h)
  case noCase => exact fun h => unimplEvent_of_some (unimplClass_decode_noCase h)
  case nops | six => simp [unimplClass]

/-! ## The STEP of a word that leaves the machine running -/

section

variable {s : State} {v : Nat}

theorem State.Fetches.lt (h : s.Fetches v) : v < 65536 := by
  have := h.word
  omega

/-- A fetched word is a word of that value. -/
theorem State.Fetches.exists_word (h : s.Fetches v) : ∃ op : Word, op.toNat = v :=
  ⟨BitVec.ofNat 16 v, ofNat_toNat_word h.lt⟩

/-- A word other than a DXYN completes. -/
theorem State.Fetches.stepTransaction_completes {op : Word} (h : s.Fetches op.toNat)
    (hop : op.toNat / 4096 ≠ 13) :
    ∃ u, exec (decode op) s.advancePc = .next u ∧ Completes (decode op) s.advancePc u ∧
      stepTransaction s = .next (u.tick, .ok (unimplEvent (decode op) op)) := by
  obtain ⟨x, y, n, hdecode, -, -⟩ | ⟨u, hexec, hc⟩ := exec_cases (decode op) s.advancePc
  · have := toNat_of_decode_DXYN hdecode
    omega
  · exact ⟨u, hexec, hc, h.stepTransaction_eq_runWord.trans (runWord_completes h.running hexec hc)⟩

end

/-- Settles O43: none of these words is a DXYN, so the STEP completes, and none has an event class. -/
theorem instructionStepsReportNoEvent : Obligations.InstructionStepsReportNoEvent := by
  intro s v hfetch hv
  obtain ⟨op, rfl⟩ := hfetch.exists_word
  have hclass : op.toNat = 0x00E0 ∨ op.toNat / 4096 ∈ [1, 6, 7, 10, 13] :=
    hv.imp_right fun h => List.mem_append_left [13] h
  have hne : op.toNat / 4096 ≠ 13 := by
    simp only [List.mem_cons, List.not_mem_nil, or_false] at hv
    omega
  obtain ⟨u, -, hc, hstep⟩ := hfetch.stepTransaction_completes hne
  rw [unimplEvent_of_none (unimplClass_decode_instruction hclass)] at hstep
  exact ⟨u.tick, hstep, step_of_transaction hstep nofun, hc.tick_dt_toNat, hc.tick_st_toNat, hc.sameFault⟩

theorem exec_of_unimplClass {i : Instr} {c : UnimplClass} (h : unimplClass i = some c) (s : State) :
    exec i s = .next s := by
  cases i with
  | op00E0 | op1NNN | op6XNN | op7XNN | opANNN | opDXYN => cases h
  | nopZeroGroup | nopClass2 | nopClass3 | nopClass4 | nopClass5 | nopClass8 | nopClass9 | nopClassB
  | nopClassC | nopClassE | nopClassF => rfl

/-- Settles O15: the word's event class says it is a no-op, so the STEP is the advance and the tick. -/
theorem noOpStep : Obligations.NoOpStep := by
  intro s v c hfetch hne hv
  obtain ⟨op, rfl⟩ := hfetch.exists_word
  have hclass : unimplClass (decode op) = some c := by
    obtain ⟨h, rfl⟩ | ⟨h, rfl⟩ := hv
    · exact unimplClass_decode_zeroGroup hne h
    · exact unimplClass_decode_noCase h
  have hexec := exec_of_unimplClass hclass s.advancePc
  have hstep : stepTransaction s = .next (s.advancePc.tick, .ok (some (c, op))) := by
    rw [hfetch.stepTransaction_eq_runWord, runWord_completes hfetch.running hexec
      (.unchanged (by simp [hclass]) _), unimplEvent_of_some hclass]
  rw [BitVec.ofNat_toNat, BitVec.setWidth_eq]
  exact ⟨s.advancePc.tick, hstep, step_of_transaction hstep nofun, fun _ => rfl, rfl, fun _ => rfl,
    fun _ => rfl, rfl, hfetch.advancePc_pc_toNat, countDown_toNat s.dt, countDown_toNat s.st, rfl, rfl, rfl⟩

end Sys2Proof.Machine

namespace Sys2Proof.Machine

/-! ## Family "other": the transactions -/

section

variable (s : State)

theorem transact_reset : transact .reset s = .next (State.reset, .ok) := rfl

theorem transact_keyWrite (w : BitVec 16) :
    ∃ ks : Vector Bool 16, transact (.keyWrite w) s = .next ({ s with keys := ks }, .ok) ∧
      ∀ k : Fin 16, ks[k] = w.getLsbD k :=
  ⟨(keyWrite w s).keys, rfl, keyWrite_keys_get s w⟩

theorem transact_step {s t : State} {r : StepResponse} (h : stepTransaction s = .next (t, r)) :
    transact .step s = .next (t, .step r) := by
  simp [transact, h]

end

/-- Settles O36: RESET leaves `State.reset`, whose memory lists nothing and so reads as the reset contents. -/
theorem resetEstablishesState : Obligations.ResetEstablishesState := by
  intro s
  refine ⟨State.reset, transact_reset s, rfl, Memory.unlisted_font,
    fun a ha _ => Memory.unlisted_above a ha, ?regs, rfl, rfl, ?cells, ?keys⟩
  case regs => exact fun k => Vector.getElem_replicate k.isLt
  case cells => exact fun j => Vector.getElem_replicate j.isLt
  case keys => exact fun k => Vector.getElem_replicate k.isLt

/-- Settles O37: RESET leaves `State.reset`, whatever the state before it. -/
theorem resetClearsFaultAndSoundTimer : Obligations.ResetClearsFaultAndSoundTimer := by
  intro s
  exact ⟨State.reset, transact_reset s, rfl, rfl, rfl, rfl, rfl⟩

theorem getLsbD_eq_beq (w : BitVec 16) (k : Nat) : w.getLsbD k = (w.toNat / 2 ^ k % 2 == 1) :=
  Nat.testBit_eq_decide_div_mod_eq

/-- Settles O39: the key vector is the one element written, and the accessors leave it out. -/
theorem keyWriteSetsKeysOnly : Obligations.KeyWriteSetsKeysOnly := by
  intro s w
  obtain ⟨ks, htr, hks⟩ := transact_keyWrite s w
  exact ⟨_, htr, fun k => (hks k).trans (getLsbD_eq_beq w k), rfl, rfl⟩

/-- Settles O32: of a faulted block a STEP is refused and a KEY_WRITE keeps FAULTED; RESET and a LOAD_ROM
that fits leave the reset state's FAULTED. -/
theorem onlyResetOrLoadLeavesFault : Obligations.OnlyResetOrLoadLeavesFault := by
  intro s tr h
  cases tr with
  | reset => exact ⟨_, _, transact_reset s, iff_of_true rfl (.inl rfl)⟩
  | step =>
    have hstep := stepTransaction_of_faulted (State.faulted_of_not_running h)
    exact ⟨_, _, transact_step hstep, iff_of_false h (by simp)⟩
  | keyWrite w =>
    obtain ⟨ks, htr, -⟩ := transact_keyWrite s w
    exact ⟨_, _, htr, iff_of_false h (by simp)⟩
  | loadRom bytes =>
    by_cases hlen : bytes.length ≤ 3584
    · exact ⟨_, _, transact_loadRom_of_fits s hlen, iff_of_true rfl (.inr ⟨bytes, rfl, hlen⟩)⟩
    · exact ⟨_, _, transact_loadRom_of_tooLarge s (by omega), iff_of_false h (by simp [hlen])⟩

theorem StepOutcome.sameMem_and_keys {s t : State} {r : StepResponse} (h : StepOutcome s t r) :
    s.SameMem t ∧ t.keys = s.keys := by
  cases h with
  | refused | fetchFault | spriteFault => exact ⟨fun _ => rfl, rfl⟩
  | completed op u hfetch hc => exact ⟨hc.sameMem, hc.keys⟩

/-- Settles O34: by transaction; a STEP, a KEY_WRITE and a refused LOAD_ROM leave every byte, the other two
are the writers named. -/
theorem onlyResetAndLoadWriteMemory : Obligations.OnlyResetAndLoadWriteMemory := by
  intro s t tr r h
  cases tr with
  | reset => exact ⟨nofun, fun _ => .inl rfl⟩
  | step =>
    obtain ⟨t', r', hstep, ho⟩ := stepTransaction_outcome s
    obtain ⟨rfl, -⟩ := Prod.mk.inj (Host.Outcome.next.inj ((transact_step hstep).symm.trans h))
    have hsame := ho.sameMem_and_keys
    exact ⟨fun _ => hsame, fun ⟨a, hne⟩ => absurd (hsame.1 a) hne⟩
  | keyWrite w =>
    obtain ⟨ks, htr, -⟩ := transact_keyWrite s w
    obtain ⟨rfl, -⟩ := Prod.mk.inj (Host.Outcome.next.inj (htr.symm.trans h))
    exact ⟨nofun, fun ⟨a, hne⟩ => absurd rfl hne⟩
  | loadRom bytes =>
    refine ⟨nofun, fun ⟨a, hne⟩ => ?_⟩
    by_cases hlen : bytes.length ≤ 3584
    · exact .inr ⟨bytes, rfl, hlen⟩
    · have htoo := transact_loadRom_of_tooLarge s (Nat.lt_of_not_le hlen)
      obtain ⟨rfl, -⟩ := Prod.mk.inj (Host.Outcome.next.inj (htoo.symm.trans h))
      exact absurd rfl hne

/-! ## The invariant (R40)

It holds of the reset state, and each of the operations a transaction is made of keeps it. -/

theorem State.reset_inv : State.reset.Inv where
  memWf := State.reset_mem_wf
  font := Memory.unlisted_font
  low a h _ := Memory.unlisted_above a h
  pc := by decide
  i := by decide
  dt := rfl
  st := rfl
  noFault _ := ⟨rfl, rfl⟩
  fault := nofun

/-- Settles O40. -/
theorem resetStateSatisfiesInvariant : Obligations.ResetStateSatisfiesInvariant := State.reset_inv

section

variable {s t u : State}

theorem addrOperand_toNat_le (a : Addr12) : (addrOperand a).toNat ≤ 0xFFF := by
  rw [addrOperand_toNat]
  omega

theorem State.Inv.raiseMemoryOutOfBounds (h : s.Inv) {c : FaultCause} (hc : c ≠ .none) :
    (s.raiseMemoryOutOfBounds c s.pc).Inv :=
  { h with noFault := nofun, fault := fun _ => ⟨hc, rfl⟩ }

/-- The invariant says nothing of the keys. -/
theorem State.Inv.with_keys (h : s.Inv) (ks : Vector Bool 16) : { s with keys := ks : State }.Inv :=
  ⟨h.memWf, h.font, h.low, h.pc, h.i, h.dt, h.st, h.noFault, h.fault⟩

/-- A completed STEP: only PC and I of the elements the invariant speaks of can change, each to a 12-bit
address or by the advance, and the timers of zero stay zero. -/
theorem State.Inv.completed {i : Instr} {v : Nat} (h : s.Inv) (hfetch : s.Fetches v)
    (hc : Completes i s.advancePc u) : u.tick.Inv where
  memWf := by rw [State.tick_mem, hc.mem]; exact h.memWf
  font a ha := by rw [State.tick_mem, hc.mem]; exact h.font a ha
  low a ha ha' := by rw [State.tick_mem, hc.mem]; exact h.low a ha ha'
  pc := by
    rw [State.tick_pc]
    obtain ⟨a, -, hpc⟩ | ⟨-, hpc⟩ := hc.pc
    · have := addrOperand_toNat_le a
      rw [hpc]
      omega
    · have := hfetch.inMemory
      rw [hpc, hfetch.advancePc_pc_toNat]
      omega
  i := by
    rw [State.tick_i]
    obtain ⟨a, -, hi⟩ | hi := hc.index
    · exact hi ▸ addrOperand_toNat_le a
    · exact hi ▸ h.i
  dt := by rw [State.tick_dt, hc.dt, State.advancePc_dt, h.dt]; rfl
  st := by rw [State.tick_st, hc.st, State.advancePc_st, h.st]; rfl
  noFault _ := by
    rw [State.tick_faultCause, State.tick_faultPc, hc.faultCause, hc.faultPc]
    exact h.noFault hfetch.running
  fault hf := by
    have hrun : u.faulted = false := hc.faulted.trans hfetch.running
    exact absurd hf (by simp [hrun])

theorem StepOutcome.inv {r : StepResponse} (ho : StepOutcome s t r) (h : s.Inv) : t.Inv := by
  cases ho with
  | refused => exact h
  | fetchFault | spriteFault => exact h.raiseMemoryOutOfBounds nofun
  | completed op u hfetch hc => exact h.completed hfetch hc

/-- The reset state with a program copied from 0x200 up: the copy stays off FONT and the zero area, and
keeps memory's form. -/
theorem State.reset_inv_loaded {bytes : List Byte} (hlen : bytes.length ≤ 3584) :
    { State.reset with mem := State.reset.mem.writeBytes 0x200 bytes : State }.Inv :=
  have hread : ∀ a, a < 0x200 →
      (State.reset.mem.writeBytes 0x200 bytes).read a = State.reset.mem.read a := fun a ha =>
    Memory.read_writeBytes_outside bytes State.reset_mem_wf (by omega) (.inl ha)
  { State.reset_inv with
    memWf := Memory.wf_writeBytes bytes State.reset_mem_wf 0x200
    font := fun a ha => (hread a (by omega)).trans (State.reset_inv.font a ha)
    low := fun a ha ha' => (hread a ha').trans (State.reset_inv.low a ha ha') }

end

/-- Settles O41: whichever way the STEP ends, its outcome keeps the invariant. -/
theorem stepKeepsInvariant : Obligations.StepKeepsInvariant := by
  intro s t h hstep
  obtain ⟨r, ho⟩ := StepOutcome.of_step hstep
  exact ho.inv h

/-- Settles O42: transaction by transaction. -/
theorem transactionsKeepInvariant : Obligations.TransactionsKeepInvariant := by
  intro s tr h
  cases tr with
  | reset => exact ⟨_, _, transact_reset s, State.reset_inv⟩
  | step =>
    obtain ⟨t, r, hstep, ho⟩ := stepTransaction_outcome s
    exact ⟨t, _, transact_step hstep, ho.inv h⟩
  | loadRom bytes =>
    by_cases hlen : bytes.length ≤ 3584
    · exact ⟨_, _, transact_loadRom_of_fits s hlen, State.reset_inv_loaded hlen⟩
    · exact ⟨s, _, transact_loadRom_of_tooLarge s (by omega), h⟩
  | keyWrite w =>
    obtain ⟨ks, htr, -⟩ := transact_keyWrite s w
    exact ⟨_, _, htr, h.with_keys ks⟩

/-! ## The key state and the STEP (R30)

Another key vector commutes with every operation of a STEP, so it commutes with the STEP. -/

/-- The state with another key vector. -/
def State.withKeys (s : State) (ks : Vector Bool 16) : State := { s with keys := ks }

section

variable (ks : Vector Bool 16)

theorem invertCell_withKeys (idx : CellIdx) (s : State) :
    invertCell idx (s.withKeys ks) = (invertCell idx s).withKeys ks := by
  have hcell : (s.withKeys ks).cell idx = s.cell idx := rfl
  simp only [invertCell, State.noteCollision, hcell]
  split <;> rfl

theorem drawPixel_withKeys (mode : Config.DrawCoordRead) (vx vy : Byte) (x y : RegIdx) (row : Byte) (r : Nat)
    (s : State) (c : Nat) :
    drawPixel mode vx vy x y row r (s.withKeys ks) c = (drawPixel mode vx vy x y row r s c).withKeys ks := by
  cases hbit : spriteBit row c with
  | false => rw [drawPixel_clear hbit, drawPixel_clear hbit]
  | true =>
    rw [drawPixel_set hbit, drawPixel_set hbit, ← invertCell_withKeys]
    cases mode <;> rfl

theorem drawRow_withKeys (mode : Config.DrawCoordRead) (vx vy : Byte) (x y : RegIdx) (s : State) (r : Nat) :
    drawRow mode vx vy x y (s.withKeys ks) r = (drawRow mode vx vy x y s r).withKeys ks :=
  List.foldl_hom (State.withKeys · ks) fun t c => drawPixel_withKeys ks mode vx vy x y _ r t c

theorem drawSprite_withKeys (mode : Config.DrawCoordRead) (x y : RegIdx) (n : Nat) (s : State) :
    drawSprite mode x y n (s.withKeys ks) = (drawSprite mode x y n s).withKeys ks := by
  rw [drawSprite_eq_drawRows, drawSprite_eq_drawRows]
  exact List.foldl_hom (l := List.range n) (init := s.clearCollision) (State.withKeys · ks)
    fun t r => drawRow_withKeys ks mode _ _ x y t r

theorem drawOrFault_withKeys (mode : Config.DrawCoordRead) (x y : RegIdx) (n : Nat) (s : State) :
    drawOrFault mode x y n (s.withKeys ks) = (drawOrFault mode x y n s).withKeys ks := by
  by_cases h : spriteOutOfBounds n s
  · rw [drawOrFault_outOfBounds h, drawOrFault_outOfBounds (s := s.withKeys ks) h]
    rfl
  · rw [drawOrFault_inBounds h, drawOrFault_inBounds (s := s.withKeys ks) h, drawSprite_withKeys]

theorem exec_withKeys {i : Instr} {s t : State} (h : exec i s = .next t) :
    exec i (s.withKeys ks) = .next (t.withKeys ks) := by
  cases i with
  | opDXYN x y n =>
    cases h
    exact congrArg Host.Outcome.next (drawOrFault_withKeys ks _ x y n s)
  | op00E0 | op1NNN | op6XNN | op7XNN | opANNN | nopZeroGroup | nopClass2 | nopClass3 | nopClass4
  | nopClass5 | nopClass8 | nopClass9 | nopClassB | nopClassC | nopClassE | nopClassF =>
    cases h
    rfl

theorem runWord_withKeys {op : Word} {s t : State} {r : StepResponse} (h : runWord op s = .next (t, r)) :
    runWord op (s.withKeys ks) = .next (t.withKeys ks, r) := by
  obtain ⟨u, hexec⟩ := exec_next (decode op) s.advancePc
  have hkeys : exec (decode op) (s.withKeys ks).advancePc = .next (u.withKeys ks) := exec_withKeys ks hexec
  have hfaulted : (u.withKeys ks).faulted = u.faulted := rfl
  rw [runWord_next hexec] at h
  rw [runWord_next hkeys, hfaulted]
  cases hu : u.faulted <;> rw [hu] at h <;> cases h <;> rfl

theorem stepTransaction_withKeys {s t : State} {r : StepResponse} (h : stepTransaction s = .next (t, r)) :
    stepTransaction (s.withKeys ks) = .next (t.withKeys ks, r) := by
  obtain ⟨hfaulted, hstep⟩ | ⟨hrun, hpc, hstep⟩ | ⟨hrun, hpc, hstep⟩ := stepTransaction_cases s
  · cases hstep.symm.trans h
    exact stepTransaction_of_faulted hfaulted
  · cases hstep.symm.trans h
    exact State.Running.stepTransaction_fetchOob (s := s.withKeys ks) hrun hpc
  · have hfetch := State.Running.fetches (s := s.withKeys ks) hrun hpc
    exact hfetch.stepTransaction_eq_runWord.trans (runWord_withKeys ks (hstep.symm.trans h))

end

/-- Settles O35: a STEP commutes with the change of the keys; the KEY_WRITE input of a vector has the
vector's entries as its bits. -/
theorem keyStateInfluencesNoStep : Obligations.KeyStateInfluencesNoStep := by
  refine ⟨fun s ks => ?step, fun s t r h k => ?reset, fun s ks => ?write⟩
  case step =>
    obtain ⟨t, r, hstep, -⟩ := stepTransaction_outcome s
    rw [hstep]
    exact stepTransaction_withKeys ks hstep
  case reset =>
    cases (transact_reset s).symm.trans h
    exact Vector.getElem_replicate k.isLt
  case write =>
    obtain ⟨ks', htr, hks'⟩ := transact_keyWrite s (BitVec.ofFnLE fun k => ks[k])
    obtain rfl : ks' = ks := by
      apply Vector.ext
      intro k hk
      have hbit := hks' ⟨k, hk⟩
      rwa [BitVec.getLsbD_ofFnLE, dif_pos hk] at hbit
    exact ⟨_, htr⟩

end Sys2Proof.Machine

namespace Sys2Proof.Machine

/-! ## Family "other": the draw, bit by bit

The rows of a draw as one run over its bits, bit p in column p mod 8 of row p / 8, with the cell each set bit
inverts. The key fact is that no two set bits address the same cell, also when under LIVE the flag moves the
draw on its way: a coordinate then only goes from 0 to 1, and a row is no wider than the display. -/

/-- The state after the first `p` bits of a draw. -/
def drawBits (mode : Config.DrawCoordRead) (x y : RegIdx) (s : State) : Nat → State
  | 0 => s.clearCollision
  | p + 1 =>
    drawPixel mode (s.readV x) (s.readV y) x y (s.mem.read (s.i.toNat + p / 8)) (p / 8)
      (drawBits mode x y s p) (p % 8)

/-- Bit `p` of the sprite at I is set (R163). -/
def State.spriteBitSet (s : State) (p : Nat) : Prop :=
  spriteBit (s.mem.read (s.i.toNat + p / 8)) (p % 8) = true

/-- The coordinate taken from V[x] at bit `p` (R164). -/
def coordAt (mode : Config.DrawCoordRead) (x y : RegIdx) (s : State) (p : Nat) (z : RegIdx) : Byte :=
  coordinate mode (s.readV z) z (drawBits mode x y s p)

/-- The cell bit `p` addresses (R165). -/
def bitCell (mode : Config.DrawCoordRead) (x y : RegIdx) (s : State) (p : Nat) : CellIdx :=
  pixelIndex (coordAt mode x y s p x) (coordAt mode x y s p y) (p / 8) (p % 8)

section

variable (mode : Config.DrawCoordRead) (x y : RegIdx) (s : State)

theorem drawBits_frame (p : Nat) : DrawFrame s (drawBits mode x y s p) := by
  induction p with
  | zero => exact clearCollision_frame s
  | succ p ih => exact ih.trans (drawPixel_frame ..)

variable {p q : Nat}

theorem drawBits_succ_of_set (h : s.spriteBitSet p) :
    drawBits mode x y s (p + 1) = invertCell (bitCell mode x y s p) (drawBits mode x y s p) :=
  drawPixel_set h ..

theorem drawBits_succ_of_clear (h : ¬ s.spriteBitSet p) :
    drawBits mode x y s (p + 1) = drawBits mode x y s p :=
  drawPixel_clear (Bool.eq_false_of_not_eq_true h) ..

/-! ### The rows are the bits -/

theorem foldl_drawPixel_eq_drawBits (r : Nat) {c : Nat} (hc : c ≤ 8) :
    (List.range c).foldl (drawPixel mode (s.readV x) (s.readV y) x y (s.mem.read (s.i.toNat + r)) r)
      (drawBits mode x y s (8 * r)) = drawBits mode x y s (8 * r + c) := by
  induction c with
  | zero => rfl
  | succ c ih =>
    have hrow : (8 * r + c) / 8 = r := by omega
    have hcol : (8 * r + c) % 8 = c := by omega
    rw [List.range_succ, List.foldl_append, ih (by omega), ← Nat.add_assoc, drawBits, hrow, hcol]
    rfl

theorem drawSprite_eq_drawBits (n : Nat) : drawSprite mode x y n s = drawBits mode x y s (8 * n) := by
  rw [drawSprite_eq_drawRows]
  induction n with
  | zero => rfl
  | succ n ih =>
    have hframe := drawBits_frame mode x y s (8 * n)
    rw [drawRows_succ, ih, drawRow, hframe.mem, hframe.i, foldl_drawPixel_eq_drawBits _ _ _ _ _ le_rfl]
    rfl

/-! ### The flag on the way -/

theorem readV_drawBits_succ (p : Nat) :
    (drawBits mode x y s (p + 1)).readV 0xF = 1 ∨
      (drawBits mode x y s (p + 1)).readV 0xF = (drawBits mode x y s p).readV 0xF := by
  by_cases h : s.spriteBitSet p
  · rw [drawBits_succ_of_set _ _ _ _ h, readV_invertCell]
    split
    · exact .inl rfl
    · exact .inr rfl
  · rw [drawBits_succ_of_clear _ _ _ _ h]
    exact .inr rfl

theorem readV_drawBits_zero : (drawBits mode x y s 0).readV 0xF = 0 := s.readV_writeV_self 0xF 0

theorem flag_eq_zero_or_one (p : Nat) :
    (drawBits mode x y s p).readV 0xF = 0 ∨ (drawBits mode x y s p).readV 0xF = 1 := by
  induction p with
  | zero => exact .inl (readV_drawBits_zero mode x y s)
  | succ p ih =>
    obtain h | h := readV_drawBits_succ mode x y s p
    · exact .inr h
    · exact h ▸ ih

/-- The flag is never cleared again within a draw (R166). -/
theorem flag_mono (hqp : q ≤ p) (h : (drawBits mode x y s q).readV 0xF = 1) :
    (drawBits mode x y s p).readV 0xF = 1 := by
  induction p, hqp using Nat.le_induction with
  | base => exact h
  | succ p _ ih =>
    obtain h' | h' := readV_drawBits_succ mode x y s p
    · exact h'
    · exact h'.trans ih

/-! ### No two bits address one cell -/

/-- A coordinate is the register's own value, but for V[0xF] under LIVE, where it is the flag. -/
theorem coordAt_eq (z : RegIdx) :
    coordAt mode x y s p z =
      if mode = .live ∧ z = 0xF then (drawBits mode x y s p).readV 0xF else s.readV z := by
  cases mode with
  | latched => rfl
  | live =>
    by_cases hz : z = 0xF
    · subst hz; rfl
    · rw [if_neg fun h => hz h.2]
      exact (drawBits_frame .live x y s p).regs z hz

/-- From an earlier bit to a later one a coordinate stays, or goes up within 0 and 1. -/
theorem coordAt_later (hqp : q ≤ p) (z : RegIdx) :
    coordAt mode x y s p z = coordAt mode x y s q z ∨
      (coordAt mode x y s q z = 0 ∧ coordAt mode x y s p z = 1) := by
  rw [coordAt_eq, coordAt_eq]
  split
  · obtain hq | hq := flag_eq_zero_or_one mode x y s q
    · obtain hp | hp := flag_eq_zero_or_one mode x y s p
      · exact .inl (hp.trans hq.symm)
      · exact .inr ⟨hq, hp⟩
    · exact .inl ((flag_mono mode x y s hqp hq).trans hq.symm)
  · exact .inl rfl

end

/-- Two bits of a sprite of at most 16 rows, the later with coordinates that stayed or went from 0 to 1: their
cells differ, as the later is further right in the same row or in a later row. -/
theorem cellAt_ne {vx vy vx' vy' : Byte} {p q : Nat} (hqp : q < p) (hp : p < 128)
    (hx : vx' = vx ∨ (vx = 0 ∧ vx' = 1)) (hy : vy' = vy ∨ (vy = 0 ∧ vy' = 1)) :
    cellAt vx vy (q / 8) (q % 8) ≠ cellAt vx' vy' (p / 8) (p % 8) := by
  have hx' : vx'.toNat = vx.toNat ∨ (vx.toNat = 0 ∧ vx'.toNat = 1) :=
    hx.imp (congrArg _) (And.imp (congrArg _) (congrArg _))
  have hy' : vy'.toNat = vy.toNat ∨ (vy.toNat = 0 ∧ vy'.toNat = 1) :=
    hy.imp (congrArg _) (And.imp (congrArg _) (congrArg _))
  unfold cellAt
  omega

section

variable (mode : Config.DrawCoordRead) (x y : RegIdx) (s : State) {p q : Nat}

theorem bitCell_ne (hqp : q < p) (hp : p < 128) : bitCell mode x y s q ≠ bitCell mode x y s p := by
  intro h
  have hval := congrArg Fin.val h
  rw [bitCell, bitCell, pixelIndex_val, pixelIndex_val] at hval
  exact cellAt_ne hqp hp (coordAt_later mode x y s hqp.le x) (coordAt_later mode x y s hqp.le y) hval

/-! ### The closed form of the draw -/

/-- One of the first `p` bits is set and addresses cell `j`. -/
def BitOn (p : Nat) (j : CellIdx) : Prop := ∃ q < p, s.spriteBitSet q ∧ bitCell mode x y s q = j

theorem cell_drawBits_of_not_bitOn {j : CellIdx} (h : ¬ BitOn mode x y s p j) :
    (drawBits mode x y s p).cell j = s.cell j := by
  induction p with
  | zero => rfl
  | succ p ih =>
    have hbefore : ¬ BitOn mode x y s p j := fun ⟨q, hq, hset⟩ => h ⟨q, by omega, hset⟩
    by_cases hset : s.spriteBitSet p
    · have hj : j ≠ bitCell mode x y s p := fun hj => h ⟨p, by omega, hset, hj.symm⟩
      rw [drawBits_succ_of_set _ _ _ _ hset, cell_invertCell, if_neg hj, ih hbefore]
    · rw [drawBits_succ_of_clear _ _ _ _ hset, ih hbefore]

/-- A set bit finds its cell as it was before the draw. -/
theorem cell_drawBits_bitCell (hp : p < 128) :
    (drawBits mode x y s p).cell (bitCell mode x y s p) = s.cell (bitCell mode x y s p) :=
  cell_drawBits_of_not_bitOn mode x y s fun ⟨_, hq, _, hcell⟩ => bitCell_ne mode x y s hq hp hcell

theorem cell_drawBits_of_bitOn {j : CellIdx} (hp : p ≤ 128) (h : BitOn mode x y s p j) :
    (drawBits mode x y s p).cell j = !s.cell j := by
  induction p with
  | zero =>
    obtain ⟨q, hq, -⟩ := h
    omega
  | succ p ih =>
    by_cases hlast : s.spriteBitSet p ∧ bitCell mode x y s p = j
    · obtain ⟨hset, rfl⟩ := hlast
      rw [drawBits_succ_of_set _ _ _ _ hset, cell_invertCell, if_pos rfl, cell_drawBits_bitCell _ _ _ _ hp]
    · have hbefore : BitOn mode x y s p j := by
        obtain ⟨q, hq, hset, hj⟩ := h
        have hqp : q ≠ p := fun e => hlast (e ▸ ⟨hset, hj⟩)
        exact ⟨q, by omega, hset, hj⟩
      by_cases hset : s.spriteBitSet p
      · have hj : j ≠ bitCell mode x y s p := fun hj => hlast ⟨hset, hj.symm⟩
        rw [drawBits_succ_of_set _ _ _ _ hset, cell_invertCell, if_neg hj, ih (by omega) hbefore]
      · rw [drawBits_succ_of_clear _ _ _ _ hset, ih (by omega) hbefore]

/-- Bit `q` is set and its cell was lit before the draw. -/
def Collides (q : Nat) : Prop := s.spriteBitSet q ∧ s.cell (bitCell mode x y s q) = true

theorem flag_drawBits_iff (hp : p ≤ 128) :
    (drawBits mode x y s p).readV 0xF = 1 ↔ ∃ q < p, Collides mode x y s q := by
  induction p with
  | zero =>
    rw [readV_drawBits_zero]
    simp
  | succ p ih =>
    have hsplit : (∃ q < p + 1, Collides mode x y s q) ↔
        (∃ q < p, Collides mode x y s q) ∨ Collides mode x y s p := Nat.exists_lt_succ_right
    rw [hsplit, ← ih (by omega)]
    by_cases hset : s.spriteBitSet p
    · rw [drawBits_succ_of_set _ _ _ _ hset, readV_invertCell, cell_drawBits_bitCell _ _ _ _ hp]
      by_cases hlit : s.cell (bitCell mode x y s p) = true <;>
        simp [Collides, hset, hlit, collisionReg]
    · rw [drawBits_succ_of_clear _ _ _ _ hset]
      simp [Collides, hset]

end

end Sys2Proof.Machine

namespace Sys2Proof.Machine

/-! ## Family "other": the closed form in rows and columns -/

section

variable (mode : Config.DrawCoordRead) (x y : RegIdx) (s : State) {n r c : Nat}

theorem spritePixel_iff : s.SpritePixel n r c ↔ r < n ∧ c < 8 ∧ s.spriteBitSet (8 * r + c) := by
  refine and_congr_right fun _ => and_congr_right fun hc => ?_
  have hrow : (8 * r + c) / 8 = r := by omega
  have hcol : (8 * r + c) % 8 = c := by omega
  rw [State.spriteBitSet, hrow, hcol, spriteBit_eq_decide, decide_eq_true_iff]

/-- A statement of the set bits below 8n is one of the pixels of n rows. -/
theorem exists_bit_iff_exists_spritePixel (P : Nat → Prop) :
    (∃ q < 8 * n, s.spriteBitSet q ∧ P q) ↔ ∃ r c, s.SpritePixel n r c ∧ P (8 * r + c) := by
  simp only [spritePixel_iff]
  constructor
  · rintro ⟨q, hq, hset, hP⟩
    have hdiv : 8 * (q / 8) + q % 8 = q := by omega
    exact ⟨q / 8, q % 8, ⟨by omega, by omega, hdiv.symm ▸ hset⟩, hdiv.symm ▸ hP⟩
  · rintro ⟨r, c, ⟨hr, hc, hset⟩, hP⟩
    exact ⟨8 * r + c, by omega, hset, hP⟩

theorem bitCell_val (hc : c < 8) :
    (bitCell mode x y s (8 * r + c)).val =
      cellAt (coordAt mode x y s (8 * r + c) x) (coordAt mode x y s (8 * r + c) y) r c := by
  have hrow : (8 * r + c) / 8 = r := by omega
  have hcol : (8 * r + c) % 8 = c := by omega
  rw [bitCell, pixelIndex_val, hrow, hcol]

section

variable {mode x y s} {place : Nat → Nat → Nat}
  (hplace : ∀ r c, s.SpritePixel n r c → (bitCell mode x y s (8 * r + c)).val = place r c)

include hplace

theorem exists_collides_iff : (∃ q < 8 * n, Collides mode x y s q) ↔
    ∃ r c, s.SpritePixel n r c ∧ s.lit (place r c) := by
  refine (exists_bit_iff_exists_spritePixel s _).trans ?_
  refine exists_congr fun r => exists_congr fun c => and_congr_right fun hpixel => ?_
  rw [← hplace r c hpixel, State.lit_val_iff]

theorem bitOn_iff (j : CellIdx) : BitOn mode x y s (8 * n) j ↔
    ∃ r c, s.SpritePixel n r c ∧ place r c = j.val := by
  refine (exists_bit_iff_exists_spritePixel s _).trans ?_
  refine exists_congr fun r => exists_congr fun c => and_congr_right fun hpixel => ?_
  rw [← hplace r c hpixel, Fin.ext_iff]

end

theorem cell_drawSprite_iff (n : Fin 16) (j : CellIdx) :
    (drawSprite mode x y n.val s).cell j = true ↔
      (s.cell j = true ↔ ¬ BitOn mode x y s (8 * n.val) j) := by
  rw [drawSprite_eq_drawBits]
  by_cases h : BitOn mode x y s (8 * n.val) j
  · rw [cell_drawBits_of_bitOn mode x y s (by omega) h]
    simp [h]
  · rw [cell_drawBits_of_not_bitOn mode x y s h]
    simp [h]

theorem flag_drawSprite_iff (n : Fin 16) :
    (drawSprite mode x y n.val s).readV 0xF = 1 ↔ ∃ q < 8 * n.val, Collides mode x y s q := by
  rw [drawSprite_eq_drawBits, flag_drawBits_iff mode x y s (by omega)]

theorem flag_drawSprite (n : Nat) :
    (drawSprite mode x y n s).readV 0xF = 0 ∨ (drawSprite mode x y n s).readV 0xF = 1 := by
  rw [drawSprite_eq_drawBits]
  exact flag_eq_zero_or_one mode x y s (8 * n)

theorem flag_drawSprite_eq_zero {n : Fin 16} (h : ¬ ∃ q < 8 * n.val, Collides mode x y s q) :
    (drawSprite mode x y n.val s).readV 0xF = 0 :=
  (flag_drawSprite mode x y s n.val).resolve_right fun hflag => h ((flag_drawSprite_iff mode x y s n).mp hflag)

/-- The flag is 1 exactly when a lit cell went off: the set bit that collided inverted its cell for good. -/
theorem flag_drawSprite_iff_turnedOff (n : Fin 16) :
    (drawSprite mode x y n.val s).readV 0xF = 1 ↔
      ∃ j, s.cell j = true ∧ (drawSprite mode x y n.val s).cell j = false := by
  rw [flag_drawSprite_iff, drawSprite_eq_drawBits]
  constructor
  · rintro ⟨q, hq, hset, hlit⟩
    refine ⟨_, hlit, ?_⟩
    rw [cell_drawBits_of_bitOn mode x y s (by omega) ⟨q, hq, hset, rfl⟩, hlit, Bool.not_true]
  · rintro ⟨j, hlit, hoff⟩
    by_cases h : BitOn mode x y s (8 * n.val) j
    · obtain ⟨q, hq, hset, rfl⟩ := h
      exact ⟨q, hq, hset, hlit⟩
    · rw [cell_drawBits_of_not_bitOn mode x y s h, hlit] at hoff
      exact Bool.noConfusion hoff

end

/-! ## DXYN whose rows lie in memory -/

section

variable {s : State} {x y n : Fin 16}

theorem not_spriteOutOfBounds (h : n.val = 0 ∨ s.i.toNat + n.val ≤ 4096) : ¬ spriteOutOfBounds n.val s := by
  rintro ⟨hn, hrows⟩
  rw [Config.memSize_eq] at hrows
  omega

theorem exec_opDXYN_of_inMemory (h : n.val = 0 ∨ s.i.toNat + n.val ≤ 4096) :
    exec (.opDXYN x y n) s = .next (drawSprite Config.drawCoordRead x y n.val s) := by
  rw [exec_opDXYN, drawOrFault_inBounds (not_spriteOutOfBounds h)]

end

/-- Settles O21: within memory exec of DXYN is the draw, whose frame is everything but V[0xF] and the display. -/
theorem drawSpriteCompletes : Obligations.DrawSpriteCompletes := by
  intro s x y n h
  have hframe := drawSprite_frame Config.drawCoordRead x y n.val s
  have hc := Completes.drawSprite Config.drawCoordRead x y n s
  exact ⟨_, exec_opDXYN_of_inMemory h, rfl, flag_drawSprite .., hframe.regs, rfl, rfl, hc.sameUnwritten⟩

/-- Settles O22: a draw of no rows is the clearing of V[0xF]. -/
theorem emptySpriteOnlyClearsFlag : Obligations.EmptySpriteOnlyClearsFlag := by
  intro s x y
  have hdraw : drawSprite Config.drawCoordRead x y 0 s = s.clearCollision := drawSprite_eq_drawBits _ x y s 0
  have hexec : exec (.opDXYN x y 0) s = .next s.clearCollision :=
    (exec_opDXYN_of_inMemory (.inl rfl)).trans (congrArg Host.Outcome.next hdraw)
  have hframe := clearCollision_frame s
  have hc : Completes (.opDXYN x y 0) s s.clearCollision := hdraw ▸ Completes.drawSprite _ x y 0 s
  exact ⟨_, hexec, s.readV_writeV_self 0xF 0, hframe.regs, s.cell_clearCollision, rfl, rfl, hc.sameUnwritten⟩

/-- Settles O16: the word decodes to DXYN (R84), whose check passes after the advance as before it; the STEP is
the advance, the draw and the tick. -/
theorem drawSpriteStep : Obligations.DrawSpriteStep := by
  intro s x y n hfetch h
  obtain ⟨u, hexec, -, hflag, hregs, hpc, hi, hmem, hkeys, ⟨hdt, hst⟩, hfaulted, hrecord⟩ :=
    drawSpriteCompletes s.advancePc x y n h
  have hdecode := decode_ofNat_DXYN x y n
  have hstep := hfetch.stepTransaction_ok (hdecode ▸ hexec) (hfaulted.trans hfetch.running)
  rw [hdecode, unimplEvent_of_none rfl] at hstep
  refine ⟨u.tick, hstep, step_of_transaction hstep nofun, hflag, hregs, ?pc, hi, hmem, hkeys, ?dt, ?st,
    hfaulted, hrecord⟩
  case pc => rw [State.tick_pc, hpc, hfetch.advancePc_pc_toNat]
  case dt => rw [State.tick_dt, countDown_toNat, hdt, State.advancePc_dt]
  case st => rw [State.tick_st, countDown_toNat, hst, State.advancePc_st]

/-! ## The draw in closed form -/

/-- Settles O24: no coordinate of the draw is a moving V[0xF], so each bit addresses its cell from the values
the registers held before. -/
theorem drawInvertsExactlyTheSprite : Obligations.DrawInvertsExactlyTheSprite := by
  intro mode x y n s hmode t
  have hcoord : ∀ p z, (z = x ∨ z = y) → coordAt mode x y s p z = s.readV z := by
    intro p z hz
    rw [coordAt_eq, if_neg]
    rintro ⟨rfl, rfl⟩
    simp only [reduceCtorEq, false_or] at hmode
    exact hz.elim (fun h => hmode.1 h.symm) fun h => hmode.2 h.symm
  have hcell : ∀ r c, s.SpritePixel n.val r c →
      (bitCell mode x y s (8 * r + c)).val = cellAt (s.readV x) (s.readV y) r c := by
    rintro r c ⟨-, hc, -⟩
    rw [bitCell_val mode x y s hc, hcoord _ x (.inl rfl), hcoord _ y (.inr rfl)]
  refine ⟨fun j => ?cells, fun h => ?lit, fun h => ?blank⟩
  case cells => rw [cell_drawSprite_iff, bitOn_iff hcell]
  case lit => exact (flag_drawSprite_iff mode x y s n).mpr ((exists_collides_iff hcell).mpr h)
  case blank => exact flag_drawSprite_eq_zero mode x y s fun hhit => h ((exists_collides_iff hcell).mp hhit)

/-! ### LIVE: the flag as a coordinate -/

section

variable {x y : RegIdx} {s : State}

/-- The first bit that collides, or the number of bits where none does. -/
theorem exists_first_collision (mode : Config.DrawCoordRead) (x y : RegIdx) (s : State) (m : Nat) :
    ∃ k ≤ m, (∀ q < k, ¬ Collides mode x y s q) ∧ (k = m ∨ Collides mode x y s k) := by
  classical
  have hex : ∃ k, k = m ∨ Collides mode x y s k := ⟨m, .inl rfl⟩
  exact ⟨Nat.find hex, Nat.find_min' hex (.inl rfl), fun q hq h => Nat.find_min hex hq (.inr h),
    Nat.find_spec hex⟩

variable {mode : Config.DrawCoordRead} {m k p : Nat}

theorem flag_before_collision (hm : m ≤ 128) (hkm : k ≤ m) (hfirst : ∀ q < k, ¬ Collides mode x y s q)
    (hpk : p ≤ k) : (drawBits mode x y s p).readV 0xF = 0 := by
  refine (flag_eq_zero_or_one mode x y s p).resolve_right fun hflag => ?_
  obtain ⟨q, hq, hcollides⟩ := (flag_drawBits_iff mode x y s (by omega)).mp hflag
  exact hfirst q (by omega) hcollides

theorem flag_after_collision (hp : p ≤ 128) (hk : Collides mode x y s k) (hkp : k < p) :
    (drawBits mode x y s p).readV 0xF = 1 :=
  (flag_drawBits_iff mode x y s hp).mpr ⟨k, hkp, hk⟩

/-- Under LIVE the coordinate V[0xF] is 0 up to the first collision and 1 after it. -/
theorem coordAt_live (hm : m ≤ 128) (hkm : k ≤ m) (hfirst : ∀ q < k, ¬ Collides .live x y s q)
    (hk : k = m ∨ Collides .live x y s k) (hp : p < m) (z : RegIdx) :
    coordAt .live x y s p z = if z = 0xF then (if p ≤ k then 0 else 1) else s.readV z := by
  have hflag : (drawBits .live x y s p).readV 0xF = if p ≤ k then 0 else 1 := by
    split
    · exact flag_before_collision hm hkm hfirst ‹_›
    · exact flag_after_collision (by omega) (hk.resolve_left (by omega)) (by omega)
  rw [coordAt_eq, hflag]
  simp only [true_and]

end

/-- Settles O25: k is the first collision, up to which the flag reads 0 and after which it reads 1. -/
theorem liveDrawFollowsItsOwnFlag : Obligations.LiveDrawFollowsItsOwnFlag := by
  intro x y n s place t
  obtain ⟨k, hkn, hfirst, hk⟩ := exists_first_collision .live x y s (8 * n.val)
  have hplace : ∀ r c, s.SpritePixel n.val r c →
      (bitCell .live x y s (8 * r + c)).val = place (if 8 * r + c ≤ k then 0 else 1) r c := by
    rintro r c ⟨hr, hc, -⟩
    have hcoord := coordAt_live (p := 8 * r + c) (by omega) hkn hfirst hk (by omega)
    rw [bitCell_val .live x y s hc, hcoord x, hcoord y]
  have hlit : ∀ r c, s.SpritePixel n.val r c → 8 * r + c ≤ k →
      (s.lit (place 0 r c) ↔ Collides .live x y s (8 * r + c)) := by
    intro r c hpixel hle
    have hval := hplace r c hpixel
    rw [if_pos hle] at hval
    rw [← hval, State.lit_val_iff]
    exact (and_iff_right ((spritePixel_iff s).mp hpixel).2.2).symm
  refine ⟨k, fun r c hpixel hlt => ?before, ?flag, fun j => ?cells⟩
  case before => exact fun hplit => hfirst _ hlt ((hlit r c hpixel hlt.le).mp hplit)
  case flag =>
    obtain hnone | hlt := hkn.eq_or_lt
    · have hno : ¬ ∃ q < 8 * n.val, Collides .live x y s q := fun ⟨q, hq, h⟩ => hfirst q (hnone ▸ hq) h
      exact .inl ⟨hnone, flag_drawSprite_eq_zero .live x y s hno⟩
    · have hcollides := hk.resolve_left hlt.ne
      obtain ⟨r, c, hc, rfl⟩ : ∃ r c, c < 8 ∧ k = 8 * r + c := ⟨k / 8, k % 8, by omega, by omega⟩
      have hpixel : s.SpritePixel n.val r c := (spritePixel_iff s).mpr ⟨by omega, hc, hcollides.1⟩
      exact .inr ⟨r, c, rfl, hpixel, (hlit r c hpixel le_rfl).mpr hcollides,
        (flag_drawSprite_iff .live x y s n).mpr ⟨_, hlt, hcollides⟩⟩
  case cells => rw [cell_drawSprite_iff, bitOn_iff hplace]

/-- Settles O26: exec of DXYN within memory is the draw, of which `flag_drawSprite_iff_turnedOff` says it. -/
theorem flagSetIffCellTurnedOff : Obligations.FlagSetIffCellTurnedOff := by
  intro s x y n h
  exact ⟨_, exec_opDXYN_of_inMemory h, flag_drawSprite_iff_turnedOff ..⟩

/-! ## The same draw twice -/

theorem bitOn_drawSprite {mode : Config.DrawCoordRead} {x y : RegIdx} (hx : x ≠ 0xF) (hy : y ≠ 0xF) (n m : Nat)
    (s : State) (j : CellIdx) :
    BitOn mode x y (drawSprite mode x y n s) m j ↔ BitOn mode x y s m j := by
  have hframe := drawSprite_frame mode x y n s
  generalize drawSprite mode x y n s = t at hframe
  have hcoord : ∀ q z, z ≠ 0xF → coordAt mode x y t q z = coordAt mode x y s q z := by
    intro q z hz
    rw [coordAt_eq, coordAt_eq, if_neg fun h => hz h.2, if_neg fun h => hz h.2, hframe.regs z hz]
  have hcell : ∀ q, bitCell mode x y t q = bitCell mode x y s q := fun q => by
    rw [bitCell, bitCell, hcoord q x hx, hcoord q y hy]
  have hset : ∀ q, t.spriteBitSet q ↔ s.spriteBitSet q := fun q => by
    rw [State.spriteBitSet, State.spriteBitSet, hframe.mem, hframe.i]
  simp only [BitOn, hcell, hset]

theorem cell_drawSprite_twice (mode : Config.DrawCoordRead) {x y : RegIdx} (hx : x ≠ 0xF) (hy : y ≠ 0xF)
    (n : Fin 16) (s : State) (j : CellIdx) :
    (drawSprite mode x y n.val (drawSprite mode x y n.val s)).cell j = s.cell j := by
  apply Bool.eq_iff_iff.mpr
  rw [cell_drawSprite_iff, bitOn_drawSprite hx hy, cell_drawSprite_iff]
  tauto

/-- Settles O27: the second draw has the first one's rows and coordinates, so it inverts the same cells back;
its flag tells of the cells it turned off, which are those the first turned on. -/
theorem sameDrawTwiceRestoresDisplay : Obligations.SameDrawTwiceRestoresDisplay := by
  intro s x y n hx hy h
  have hcells := cell_drawSprite_twice Config.drawCoordRead hx hy n s
  have hflag := flag_drawSprite_iff_turnedOff Config.drawCoordRead x y
    (drawSprite Config.drawCoordRead x y n.val s) n
  refine ⟨_, _, exec_opDXYN_of_inMemory h, exec_opDXYN_of_inMemory h, hcells, hflag.trans ?_⟩
  exact exists_congr fun j => by rw [hcells j, and_comm]

end Sys2Proof.Machine
